-- ==== Sys2Proof/Word.lean ====
section
/-!
DEFINITION. The word types of go-6502 CORE: bytes and 16-bit addresses (00_scope R4, section 7.1).
All register and memory values are unsigned bit vectors; no operation interprets a value as signed.
-/
namespace Sys2Proof

/-- A byte: 8 bits (00_scope R4). -/
abbrev Byte := BitVec 8

/-- An address, and a word: 16 bits (00_scope R4, 20_memory R40). -/
abbrev Addr := BitVec 16

end Sys2Proof
end

