-- ==== Sys2Proof/Syntax.lean ====
section
/-!
DEFINITION. The instruction set go-6502/9 as syntax: the nine mnemonics, the three formats, a row of the
Instruction Table, and Instr, one constructor per row of spec/opcode_table.json (00_scope R2, 30_encoding R70 to R81).
-/
namespace Sys2Proof

/-- The nine recognised operations, in the order of the opcode table (30_encoding R78). -/
inductive Mnemonic where
  | sty | sta | stx | ldy | ldx | lda | dec | nop | inc
  deriving DecidableEq, Repr

/-- The three instruction formats (30_encoding R70 to R73; 90_conflicts C8). -/
inductive Format where
  | imp   -- no operand, 1 byte (R71)
  | imm   -- one-byte immediate operand, 2 bytes (R72)
  | abs   -- two-byte absolute address, 3 bytes (R73)
  deriving DecidableEq, Repr

/-- The number of bytes of an instruction of this format, opcode included (30_encoding R71 to R74). -/
def Format.length : Format → Nat
  | .imp => 1
  | .imm => 2
  | .abs => 3

/-- What decoding needs of a row of the Instruction Table: the opcode byte that selects it and the operation it
selects (30_encoding R78, R81). -/
structure TableRow where
  opcode : Byte
  op     : Mnemonic
  deriving DecidableEq, Repr

/-- An instruction with its operand: `imm` is the immediate byte (30_encoding R76), `a` the absolute address (R77). -/
inductive Instr where
  | sty (a : Addr)     -- 0x8C, ABS
  | sta (a : Addr)     -- 0x8D, ABS
  | stx (a : Addr)     -- 0x8E, ABS
  | ldy (imm : Byte)   -- 0xA0, IMM
  | ldx (imm : Byte)   -- 0xA2, IMM
  | lda (imm : Byte)   -- 0xA9, IMM
  | dec (a : Addr)     -- 0xCE, ABS
  | nop                -- 0xEA, IMP
  | inc (a : Addr)     -- 0xEE, ABS
  deriving DecidableEq, Repr

/-- The operation of an instruction, without its operand. -/
def Instr.mnemonic : Instr → Mnemonic
  | .sty _ => .sty
  | .sta _ => .sta
  | .stx _ => .stx
  | .ldy _ => .ldy
  | .ldx _ => .ldx
  | .lda _ => .lda
  | .dec _ => .dec
  | .nop => .nop
  | .inc _ => .inc

/-- The one memory address an instruction stores to, or none: INC, DEC and the stores write the byte at their absolute
address, the loads and NOP write no memory (20_memory R51). -/
def Instr.storesTo : Instr → Option Addr
  | .sty a => some a
  | .sta a => some a
  | .stx a => some a
  | .ldy _ => none
  | .ldx _ => none
  | .lda _ => none
  | .dec a => some a
  | .nop => none
  | .inc a => some a

end Sys2Proof
end

