-- ==== Sys2Proof/Config.lean ====
section
/-!
DEFINITION. The open parameters of the hardware (00_scope section 4, 92_eei_decisions "Parameters summary"):
STORE_MODE (its type; its value stands in State), BASE_COST (a free value), NAME (the spec's defaults).
CYC_WIDTH is at its default, unbounded: the counter is a Nat (10_state R20, D3; assumption log 2).
-/
namespace Sys2Proof

/-- The parameter STORE_MODE: what STA, STX and STY write (43_store_absolute R133, D1; assumption log 1). -/
inductive StoreMode where
  | assign     -- ASSIGN: "memory cell = register value"
  | subtract   -- SUBTRACT: "subtracts the register's value from the memory cell in place"
  deriving DecidableEq, Repr

/-- FREE VALUE. By how much the base cycle cost of an operation exceeds the one bound the spec gives, 1: the spec gives
no value for BASE_COST (30_encoding R81, D4, 91_not_in_source N4). Nothing in Lean can evaluate it (assumption log 3). -/
opaque Config.costAboveOne : Mnemonic → Nat

/-- The parameter BASE_COST(op): any number that is at least 1 (30_encoding R81). -/
def Config.baseCost (m : Mnemonic) : Nat := Config.costAboveOne m + 1

/-- The parameter NAME(op), at the defaults of 30_encoding R81. DESIGN CHOICE (the spec's own, D13; assumption log 4). -/
def Config.name : Mnemonic → String
  | .sty => "STY-absolute"
  | .sta => "STA-absolute"
  | .stx => "STX-absolute"
  | .ldy => "LDY-immediate"
  | .ldx => "LDX-immediate"
  | .lda => "LDA-immediate"
  | .dec => "DEC-absolute"
  | .nop => "NOP"
  | .inc => "INC-absolute"

end Sys2Proof
end

