-- ==== Sys2Proof/WellFormed.lean ====
section
/-!
DEFINITION. Well-formedness of syntax. Every term of Instr is well-formed: its operand has exactly the bits the encoding
gives it, and every immediate 0x00 to 0xFF and every address 0x0000 to 0xFFFF is legal (30_encoding R76, R77). What can be
ill-formed is an Instruction Table: "a model that builds its table from a list should refuse a list with a repeated
opcode" (93_implementation_defined U2).
-/
namespace Sys2Proof

/-- Every instruction is well-formed: the operand types admit exactly the legal operands (30_encoding R76, R77). -/
def Instr.wellFormed : Instr → Bool
  | .sty _ => true
  | .sta _ => true
  | .stx _ => true
  | .ldy _ => true
  | .ldx _ => true
  | .lda _ => true
  | .dec _ => true
  | .nop => true
  | .inc _ => true

/-- A table that repeats no opcode (30_encoding R80: "each opcode appearing once"; U2). -/
def tableWellFormed : List TableRow → Bool
  | [] => true
  | r :: rest => rest.all (fun q => q.opcode != r.opcode) && tableWellFormed rest

end Sys2Proof
end

