-- ==== Sys2Proof/Decode.lean ====
section
/-!
DEFINITION. The encoding of go-6502/9: byte order, the Instruction Table, the decoder, and after it the encoder
(30_encoding R70 to R80).
-/
namespace Sys2Proof

/-- `word hi lo` is the 16-bit value with `hi` in the high bits: hi * 256 + lo (00_scope section 7.1, 20_memory R49). -/
def word (hi lo : Byte) : Addr := hi ++ lo

/-- Bits 7:0 of a word. -/
def loByte (a : Addr) : Byte := a.extractLsb' 0 8

/-- Bits 15:8 of a word. -/
def hiByte (a : Addr) : Byte := a.extractLsb' 8 8

/-- The Instruction Table: a constant of nine rows, each opcode once (30_encoding R78, R80). -/
def instructionTable : List TableRow :=
  [ ⟨0x8C, .sty⟩, ⟨0x8D, .sta⟩, ⟨0x8E, .stx⟩,
    ⟨0xA0, .ldy⟩, ⟨0xA2, .ldx⟩, ⟨0xA9, .lda⟩,
    ⟨0xCE, .dec⟩, ⟨0xEA, .nop⟩, ⟨0xEE, .inc⟩ ]

/-- `lookup(opcode)`: the operation of the row whose opcode equals the byte, all eight bits of it, or none for "not
found" (30_encoding R75, R80). -/
def lookup (op : Byte) : Option Mnemonic :=
  (instructionTable.find? (fun r => r.opcode == op)).map TableRow.op

/-- The format of each operation (30_encoding R71 to R73, R78). -/
def Mnemonic.format : Mnemonic → Format
  | .sty => .abs
  | .sta => .abs
  | .stx => .abs
  | .ldy => .imm
  | .ldx => .imm
  | .lda => .imm
  | .dec => .abs
  | .nop => .imp
  | .inc => .abs

/-- The length in bytes of an instruction, fixed by its opcode alone (30_encoding R74). -/
def Mnemonic.length (m : Mnemonic) : Nat := m.format.length

/-- The length in bytes of an instruction (30_encoding R74). -/
def Instr.length (i : Instr) : Nat := i.mnemonic.length

/-- Why a list of bytes holds no instruction. -/
inductive DecodeError where
  /-- There is no byte to read an opcode from. Never at a step: a step always has its opcode byte. -/
  | noOpcode
  /-- The opcode byte is one of the 247 that match no row (30_encoding R79). -/
  | unrecognised (op : Byte)
  /-- The list ends inside the operand of a recognised instruction. Never at a step: three bytes are always there. -/
  | truncated (m : Mnemonic)
  deriving DecidableEq, Repr

/-- Take a one-byte immediate operand as it stands (30_encoding R72, R76). -/
def takeImmediate (m : Mnemonic) (build : Byte → Instr) : List Byte → Except DecodeError (Instr × List Byte)
  | imm8 :: rest => .ok (build imm8, rest)
  | [] => .error (.truncated m)

/-- Take a two-byte absolute address, low byte first (30_encoding R73, R77). -/
def takeAbsolute (m : Mnemonic) (build : Addr → Instr) : List Byte → Except DecodeError (Instr × List Byte)
  | lo :: hi :: rest => .ok (build (word hi lo), rest)
  | [_] => .error (.truncated m)
  | [] => .error (.truncated m)

/-- The instruction of an operation whose operand bytes come first in the list, and the bytes after it. -/
def decodeOperand : Mnemonic → List Byte → Except DecodeError (Instr × List Byte)
  | .sty, bytes => takeAbsolute .sty .sty bytes
  | .sta, bytes => takeAbsolute .sta .sta bytes
  | .stx, bytes => takeAbsolute .stx .stx bytes
  | .ldy, bytes => takeImmediate .ldy .ldy bytes
  | .ldx, bytes => takeImmediate .ldx .ldx bytes
  | .lda, bytes => takeImmediate .lda .lda bytes
  | .dec, bytes => takeAbsolute .dec .dec bytes
  | .nop, bytes => .ok (.nop, bytes)
  | .inc, bytes => takeAbsolute .inc .inc bytes

/-- Decode the instruction at the head of a list of bytes, in increasing address order, and give the bytes after it; any
other list is rejected by name (30_encoding R70, R74, R79). -/
def decode : List Byte → Except DecodeError (Instr × List Byte)
  | [] => .error .noOpcode
  | op :: bytes =>
    match lookup op with
    | none => .error (.unrecognised op)
    | some m => decodeOperand m bytes

/-- Byte `k` of an instruction whose bits are `w`, byte 0 the least significant. -/
def tableByte (w k : Nat) : Byte := BitVec.ofNat 8 (w >>> (8 * k))

/-- The bytes, in memory order, of an instruction given by its `nbits` bits `w`: the opcode byte is bits 7:0, the next
byte bits 15:8, and so on; up to the longest instruction, three bytes, the bits above `nbits` are 0. -/
def tableBytes (nbits w : Nat) : List Byte :=
  [tableByte (w % 2 ^ nbits) 0, tableByte (w % 2 ^ nbits) 1, tableByte (w % 2 ^ nbits) 2]

/-- What the decoder reads from an instruction given by its `nbits` bits `w` (assumption log 17). -/
def decodeTableWord (nbits w : Nat) : Option Instr :=
  match decode (tableBytes nbits w) with
  | .ok (i, _) => some i
  | .error _ => none

/-- The opcode byte of each operation, written from 30_encoding R78 a second time, for the encoder and the IR slot. -/
def Mnemonic.opcode : Mnemonic → Byte
  | .sty => 0x8C
  | .sta => 0x8D
  | .stx => 0x8E
  | .ldy => 0xA0
  | .ldx => 0xA2
  | .lda => 0xA9
  | .dec => 0xCE
  | .nop => 0xEA
  | .inc => 0xEE

/-- The operand bytes of an instruction in memory order: none, the immediate, or low and high byte of the address
(30_encoding R71 to R73). -/
def Instr.operandBytes : Instr → List Byte
  | .sty a => [loByte a, hiByte a]
  | .sta a => [loByte a, hiByte a]
  | .stx a => [loByte a, hiByte a]
  | .ldy imm => [imm]
  | .ldx imm => [imm]
  | .lda imm => [imm]
  | .dec a => [loByte a, hiByte a]
  | .nop => []
  | .inc a => [loByte a, hiByte a]

/-- The bytes of an instruction in memory order (30_encoding R70, R82). -/
def encode (i : Instr) : List Byte := i.mnemonic.opcode :: i.operandBytes

end Sys2Proof
end

