-- ==== Sys2Proof/Machine/State.lean ====
section
/-!
DEFINITION. The state of go-6502 CORE: the ten elements of 10_state R10, and the parameter STORE_MODE as a field of the
model's own (assumption log 1). State is plain data.
-/
namespace Sys2Proof.Machine

/-- What a byte of memory that is not listed holds: construction zero-fills memory (10_state R23, 70_reset R170). -/
def Memory.unlisted : Byte := 0x00

/-- MEM, the 65,536 bytes of the one address space (10_state R23, 20_memory R40), as the list of the cells that differ
from `Memory.unlisted`, by rising address. -/
structure Memory where
  cells : List Host.Cell
  deriving DecidableEq, Repr

/-- The canonical form: addresses strictly rise and lie in the address space, and no listed byte equals what an unlisted
address holds; so equal memories are equal data (assumption log 14). -/
abbrev Memory.wf (m : Memory) : Prop :=
  m.cells.Pairwise (fun c d => c.1 < d.1) ∧ ∀ c ∈ m.cells, c.1 < 65536 ∧ c.2 ≠ Memory.unlisted

/-- The content of the "currently decoded instruction" slot: a copy of the descriptor's name, opcode and base cycle
cost, the cost reduced by 1 (10_state R21, 40_step R93). -/
structure DecodedInstr where
  name   : String
  opcode : Byte
  cost   : Nat
  deriving DecidableEq, Repr

/-- The state of the machine. -/
structure State where
  /-- PC, the program counter, 16 bits (10_state R13). -/
  pc        : Addr
  /-- AC, the accumulator, 8 bits (10_state R11). -/
  ac        : Byte
  /-- XR, index register X, 8 bits (10_state R11). -/
  xr        : Byte
  /-- YR, index register Y, 8 bits (10_state R11). -/
  yr        : Byte
  /-- SP, the stack pointer, 16 bits, inert (10_state R12; assumption log 8). -/
  sp        : Addr
  /-- P, the status register, 8 bits (10_state R14). -/
  p         : Byte
  /-- CYC, the cycle counter, a natural number (10_state R20; assumption log 2). -/
  cyc       : Nat
  /-- IR, the decoded-instruction slot (10_state R21). -/
  ir        : Option DecodedInstr
  /-- HALT, the halt flag, inert (10_state R22; assumption log 8). -/
  halt      : Bool
  /-- MEM (10_state R23). -/
  mem       : Memory
  /-- The parameter STORE_MODE of this machine, fixed for its lifetime: the model's own field (43_store_absolute R133;
  assumption log 1). -/
  storeMode : StoreMode
  deriving DecidableEq, Repr

/-- Why a step stops with a fault: never. The core raises no exception, and no instruction, fetch or memory access can
fault (60_exceptions R150), so there is no reason to name and nothing raises one; this is exact, so safe
(assumption log 19). -/
inductive Fault where
  deriving DecidableEq, Repr

/-- Why a step is refused. -/
inductive Refusal where
  /-- An instruction whose meaning is not written yet, raised by `exec` alone, under its table mnemonic. Safe: nothing is
  said about the instruction. No arm of `exec` raises it. -/
  | notModelled (mnemonic : String)
  deriving DecidableEq, Repr

/-- What a step of the machine answers. -/
abbrev StepOutcome := Host.Outcome State Fault Refusal

/-- The machine after construction, the equivalent of power-on: everything zero, IR empty, HALT clear (70_reset R170).
`storeMode` is the parameter, for which the spec has a default only: DESIGN CHOICE ASSIGN (assumption log 1). -/
def State.construct : State :=
  { pc := 0x0000, ac := 0x00, xr := 0x00, yr := 0x00, sp := 0x0000, p := 0x00, cyc := 0, ir := none, halt := false,
    mem := ⟨[]⟩, storeMode := .assign }

/-- The machine right after reset: construction followed by `reset()`, which clears P and loads PC with the word at the
reset vector, 0x0000 in the zero-filled memory; every other element as constructed (70_reset R170, R171; assumption
log 11). That `cpuReset` on the constructed machine gives exactly this state is one of the statements. -/
def State.reset : State :=
  { pc := 0x0000, ac := 0x00, xr := 0x00, yr := 0x00, sp := 0x0000, p := 0x00, cyc := 0, ir := none, halt := false,
    mem := ⟨[]⟩, storeMode := .assign }

end Sys2Proof.Machine
end

