-- ==== Sys2Proof/Machine/Ops.lean ====
section
/-!
DEFINITION. The named operations over memory and registers: byte and word access, the advance of PC and CYC, the IR slot,
the opcode fetch every instruction begins with, the unrecognised-opcode step, and the host's reset() command
(20_memory, 40_step_and_dispatch, 70_reset_and_hazards). The hardware raises no exception (60_exceptions R150), so there is
no operation that takes one or returns from one.
-/
namespace Sys2Proof.Machine

/-! ### Memory -/

/-- The byte a list of cells holds at an address. -/
def readCells (k : Nat) : List Host.Cell → Byte
  | [] => Memory.unlisted
  | c :: rest => if c.1 = k then c.2 else readCells k rest

/-- Put a cell before the first one with a larger address. -/
def insertCell (c : Host.Cell) : List Host.Cell → List Host.Cell
  | [] => [c]
  | d :: rest => if c.1 < d.1 then c :: d :: rest else d :: insertCell c rest

/-- Take every cell of an address out. -/
def dropCell (k : Nat) (cells : List Host.Cell) : List Host.Cell := cells.filter (fun c => c.1 != k)

/-- `MEM[a]`: every 16-bit address selects exactly one byte (20_memory R40, R41). -/
def Memory.read (m : Memory) (a : Addr) : Byte := readCells a.toNat m.cells

/-- `MEM[a] <- v`; a byte that equals what an unlisted address holds is not listed (20_memory R42). -/
def Memory.write (m : Memory) (a : Addr) (v : Byte) : Memory :=
  if v = Memory.unlisted then ⟨dropCell a.toNat m.cells⟩
  else ⟨insertCell (a.toNat, v) (dropCell a.toNat m.cells)⟩

/-- `MemRead(a, 1)`: no side effect, never fails (20_memory R41). -/
def State.readByte (s : State) (a : Addr) : Byte := s.mem.read a

/-- `MemWrite(a, 1, v)`: changes the one byte and nothing else, never fails (20_memory R42). -/
def State.writeByte (s : State) (a : Addr) (v : Byte) : State := { s with mem := s.mem.write a v }

/-- `MemRead(a, 2)`: little-endian, the high byte at `a +_16 1`, so the word at 0xFFFF takes its high byte from 0x0000
(20_memory R43; DESIGN CHOICE of the spec, D2; assumption log 7). -/
def State.readWord (s : State) (a : Addr) : Addr := word (s.readByte (a + 1)) (s.readByte a)

/-! ### Registers -/

/-- What a fetch of `n` bytes does besides reading: PC advances modulo 65,536 and CYC counts the bytes (20_memory R46,
R47; 10_state R13, R20). -/
def State.advance (s : State) (n : Nat) : State := { s with pc := s.pc + BitVec.ofNat 16 n, cyc := s.cyc + n }

/-- `AC <- v` (10_state R11). -/
def State.setAc (s : State) (v : Byte) : State := { s with ac := v }

/-- `XR <- v` (10_state R11). -/
def State.setXr (s : State) (v : Byte) : State := { s with xr := v }

/-- `YR <- v` (10_state R11). -/
def State.setYr (s : State) (v : Byte) : State := { s with yr := v }

/-- The copy of an operation's descriptor that the IR slot holds: its base cycle cost is reduced by 1 (40_step R93). -/
def decodedOf (m : Mnemonic) : DecodedInstr := ⟨Config.name m, m.opcode, Config.baseCost m - 1⟩

/-- `IR <- (NAME(op), op, BASE_COST(op) - 1)` (40_step R93). -/
def State.latchIr (s : State) (m : Mnemonic) : State := { s with ir := some (decodedOf m) }

/-- `IR <- none` (40_step R92). -/
def State.clearIr (s : State) : State := { s with ir := none }

/-! ### The parts of a step that all instructions share -/

/-- Items 1 and 4 of `step()` for a recognised opcode: the opcode fetch, then the IR slot; the instruction's behaviour
runs on the state this leaves (40_step R91, R93). -/
def State.beginInstr (s : State) (m : Mnemonic) : State := (s.advance 1).latchIr m

/-- Items 1 and 3 of `step()`: an unrecognised opcode is skipped as one byte and the IR slot is cleared (40_step R92). -/
def State.skipUnrecognised (s : State) : State := (s.advance 1).clearIr

/-- The bytes an instruction at PC can have: the opcode byte and the two that follow it, wrapping from 0xFFFF to 0x0000
(30_encoding R70). Reads have no side effect, so reading all three is reading those the instruction has (20_memory R41;
assumption log 15). -/
def State.fetchWindow (s : State) : List Byte :=
  [s.readByte s.pc, s.readByte (s.pc + 1), s.readByte (s.pc + 2)]

/-- What a step reports to the host beside the state: a status, not a trap (40_step R96). -/
inductive Report where
  | ok
  | unknownOpcode (op : Byte)
  deriving DecidableEq, Repr

/-- The report of the step taken from this state: OK when the opcode at PC is recognised, UNKNOWN_OPCODE of that byte when
it is not (40_step R96, D5; assumption log 5). -/
def State.report (s : State) : Report :=
  match lookup (s.readByte s.pc) with
  | some _ => .ok
  | none => .unknownOpcode (s.readByte s.pc)

/-! ### The reset command -/

/-- The address of the reset vector's low byte; its high byte is at 0xFFFD (20_memory R53). -/
def resetVector : Addr := 0xFFFC

/-- The host's `reset()`: P cleared, PC loaded from the reset vector, nothing else touched; not to be confused with
construction (70_reset R171; IR, CYC and HALT unchanged by D8; assumption log 9). -/
def State.cpuReset (s : State) : State := { s with p := 0x00, pc := s.readWord resetVector }

end Sys2Proof.Machine
end

