-- ==== Sys2Proof/Machine/Flags.lean ====
section
/-!
DEFINITION. The status register's flags and the ALU: SetFlag, GetFlag, SetNZ, INC8, DEC8, SUB8 and what a store writes
(10_state R14 to R19, 40_step_and_dispatch R97 to R99, 43_store_absolute R133).
-/
namespace Sys2Proof.Machine

/-- The seven flags; bit 5 of P has no flag, no getter and no setter (10_state R14, R15). -/
inductive Flag where
  | n | v | b | d | i | z | c
  deriving DecidableEq, Repr

/-- The mask of each flag in P (10_state R14). -/
def Flag.mask : Flag → Byte
  | .n => 0x80
  | .v => 0x40
  | .b => 0x10
  | .d => 0x08
  | .i => 0x04
  | .z => 0x02
  | .c => 0x01

/-- `SetFlag(f, b)` on a status byte: the target bit is cleared, then set if `b`; the others are untouched (10_state
R16). -/
def setFlag (f : Flag) (b : Bool) (p : Byte) : Byte := (p &&& (0xFF ^^^ f.mask)) ||| (if b then f.mask else 0x00)

/-- `GetFlag(f)` of a status byte (10_state R17). -/
def getFlag (f : Flag) (p : Byte) : Bool := (p &&& f.mask) != 0

/-- `SetNZ(v)` on a status byte: Z = (v is zero), N = bit 7 of v, both written every time (40_step R97). -/
def setNZ (v p : Byte) : Byte := setFlag .n v.msb (setFlag .z (v == 0x00) p)

/-- `SetNZ(v)` on the state (40_step R97). -/
def State.setNZ (s : State) (v : Byte) : State := { s with p := Sys2Proof.Machine.setNZ v s.p }

/-- `INC8(v)`, modulo 256, no carry (40_step R98). -/
def inc8 (v : Byte) : Byte := v + 1

/-- `DEC8(v)`, modulo 256, no borrow (40_step R98). -/
def dec8 (v : Byte) : Byte := v - 1

/-- `SUB8(m, r)`, modulo 256, no borrow in or out, no flag (40_step R99; DESIGN CHOICE of the spec, D23; assumption
log 13). -/
def sub8 (m r : Byte) : Byte := m - r

/-- `StoreValue(m, r)`: what a store writes over the old byte `m` from the register value `r` (43_store_absolute R133). -/
def storeValue (mode : StoreMode) (m r : Byte) : Byte :=
  match mode with
  | .assign => r
  | .subtract => sub8 m r

/-- A store of the register value `r` at `a`: one byte is written, and no flag in either mode (43_store_absolute R133;
DESIGN CHOICE of the spec, D6; assumption log 6). -/
def State.storeRegister (s : State) (a : Addr) (r : Byte) : State :=
  s.writeByte a (storeValue s.storeMode (s.readByte a) r)

/-- Read the byte at `a`, change it by `f`, write it back and set N and Z from the byte written (42_inc_dec R120, R121). -/
def State.modifyByte (s : State) (a : Addr) (f : Byte → Byte) : State :=
  (s.writeByte a (f (s.readByte a))).setNZ (f (s.readByte a))

end Sys2Proof.Machine
end

