-- ==== Sys2Proof/Machine/Operands.lean ====
section
/-!
DEFINITION. The operand forms: what consuming an operand does to the state. The operand's value itself is decoded with the
instruction (Decode.lean: takeImmediate, takeAbsolute); reading it changes nothing but PC and CYC (20_memory R46 to R48).
-/
namespace Sys2Proof.Machine

/-- No operand: nothing is consumed (30_encoding R71). -/
def State.consumeImplied (s : State) : State := s

/-- An immediate operand: one FetchByte (30_encoding R72, 20_memory R46). -/
def State.consumeImmediate (s : State) : State := s.advance 1

/-- An absolute address: one FetchWord (30_encoding R73, 20_memory R47). -/
def State.consumeAbsolute (s : State) : State := s.advance 2

end Sys2Proof.Machine
end

