-- ==== Sys2Proof/Machine/IncDec.lean ====
section
/-!
DEFINITION. Memory increment and decrement (42_inc_dec_absolute). Each meaning is the whole step of the instruction.
-/
namespace Sys2Proof.Machine

/-- INC-absolute: MEM[a] <- MEM[a] +_8 1; Z and N from the result (42_inc_dec R120). -/
def execInc (a : Addr) (s : State) : StepOutcome :=
  .next (((s.beginInstr .inc).consumeAbsolute).modifyByte a inc8)

/-- DEC-absolute: MEM[a] <- MEM[a] -_8 1; Z and N from the result (42_inc_dec R121). -/
def execDec (a : Addr) (s : State) : StepOutcome :=
  .next (((s.beginInstr .dec).consumeAbsolute).modifyByte a dec8)

end Sys2Proof.Machine
end

