-- ==== Sys2Proof/Machine/Loads.lean ====
section
/-!
DEFINITION. The load-immediate family (41_load_immediate). Each meaning is the whole step of the instruction: the opcode
fetch and the IR slot, the operand, and the behaviour of its rule.
-/
namespace Sys2Proof.Machine

/-- LDA-immediate: AC <- imm8; Z and N from it (41_load_immediate R110). -/
def execLda (imm : Byte) (s : State) : StepOutcome :=
  .next ((((s.beginInstr .lda).consumeImmediate).setAc imm).setNZ imm)

/-- LDX-immediate: XR <- imm8; Z and N from it (41_load_immediate R111). -/
def execLdx (imm : Byte) (s : State) : StepOutcome :=
  .next ((((s.beginInstr .ldx).consumeImmediate).setXr imm).setNZ imm)

/-- LDY-immediate: YR <- imm8; Z and N from it (41_load_immediate R112). -/
def execLdy (imm : Byte) (s : State) : StepOutcome :=
  .next ((((s.beginInstr .ldy).consumeImmediate).setYr imm).setNZ imm)

end Sys2Proof.Machine
end

