-- ==== Sys2Proof/Machine/Nop.lean ====
section
/-!
DEFINITION. NOP (44_nop): nothing beyond the opcode fetch and the IR slot. It is no fence and no halt (20_memory R57).
-/
namespace Sys2Proof.Machine

/-- NOP: the behaviour does nothing (44_nop R140). -/
def execNop (s : State) : StepOutcome := .next ((s.beginInstr .nop).consumeImplied)

end Sys2Proof.Machine
end

