-- ==== Sys2Proof/Machine/Stores.lean ====
section
/-!
DEFINITION. The stores (43_store_absolute). Each meaning is the whole step of the instruction. What is written depends on
the machine's STORE_MODE (R133); no flag is written and the register is kept.
-/
namespace Sys2Proof.Machine

/-- STA-absolute: MEM[a] <- StoreValue(MEM[a], AC) (43_store_absolute R130, R133). -/
def execSta (a : Addr) (s : State) : StepOutcome :=
  .next (((s.beginInstr .sta).consumeAbsolute).storeRegister a s.ac)

/-- STX-absolute: MEM[a] <- StoreValue(MEM[a], XR) (43_store_absolute R131, R133). -/
def execStx (a : Addr) (s : State) : StepOutcome :=
  .next (((s.beginInstr .stx).consumeAbsolute).storeRegister a s.xr)

/-- STY-absolute: MEM[a] <- StoreValue(MEM[a], YR) (43_store_absolute R132, R133). -/
def execSty (a : Addr) (s : State) : StepOutcome :=
  .next (((s.beginInstr .sty).consumeAbsolute).storeRegister a s.yr)

end Sys2Proof.Machine
end

