-- ==== Sys2Proof/Machine/Dispatch.lean ====
section
/-!
DEFINITION. Dispatch: a nine-way decode, one arm per instruction (40_step_and_dispatch R94). `exec i s` is the whole step
that decodes `i` at state `s`: opcode fetch, IR, operand, behaviour.
-/
namespace Sys2Proof.Machine

def exec (i : Instr) (s : State) : Host.Outcome State Fault Refusal :=
  match i with
  | .sty a => Sys2Proof.Machine.execSty a s
  | .sta a => Sys2Proof.Machine.execSta a s
  | .stx a => Sys2Proof.Machine.execStx a s
  | .ldy imm => Sys2Proof.Machine.execLdy imm s
  | .ldx imm => Sys2Proof.Machine.execLdx imm s
  | .lda imm => Sys2Proof.Machine.execLda imm s
  | .dec a => Sys2Proof.Machine.execDec a s
  | .nop => Sys2Proof.Machine.execNop s
  | .inc a => Sys2Proof.Machine.execInc a s

end Sys2Proof.Machine
end

