-- ==== Sys2Proof/Machine/Step.lean ====
section
/-!
DEFINITION. `step()`: one instruction, or one unrecognised byte skipped (40_step_and_dispatch R91). It is defined in every
state and always answers a next state (R95, R102).
-/
namespace Sys2Proof.Machine

/-- Decode at PC; run the instruction, or skip the byte no row matches (40_step R91, R92). The window always holds three
bytes, so the only decode error a step meets is an unrecognised opcode (Laws/Step.lean). -/
def step (s : State) : Host.Outcome State Fault Refusal :=
  match decode s.fetchWindow with
  | .ok (i, _) => exec i s
  | .error _ => .next s.skipUnrecognised

/-- Store an instruction's bytes where the next step fetches: at PC, PC +_16 1, PC +_16 2 (assumption log 17). -/
def State.withFetchWord (s : State) (nbits w : Nat) : State :=
  ((s.writeByte s.pc (tableByte (w % 2 ^ nbits) 0)).writeByte (s.pc + 1) (tableByte (w % 2 ^ nbits) 1)).writeByte
    (s.pc + 2) (tableByte (w % 2 ^ nbits) 2)

end Sys2Proof.Machine
end

