-- ==== Sys2Proof/Machine/Bus.lean ====
section
/-!
DEFINITION. `step()` and `reset()` one memory access at a time: the fetch primitives, the nine behaviours and the accesses
they make, in the spec's own pseudocode (20_memory R46, R47, R51; 40_step R91). The machine's step (Step.lean) decodes an
instruction with its operands and runs it whole; here each behaviour pulls its own operand bytes, and every access is
logged. The log is no state of the machine (assumption log 12, 15). The statements relate the two.
-/
namespace Sys2Proof.Machine

/-- One access to memory: a byte read or a byte written (20_memory R51). -/
inductive Access where
  | read (a : Addr)
  | write (a : Addr) (v : Byte)
  deriving DecidableEq, Repr

/-- The machine inside a step, and the accesses the step has made, oldest first. -/
structure Bus where
  state : State
  log   : List Access
  deriving DecidableEq, Repr

/-- `MemRead(a, 1)` as an access (20_memory R41). -/
def busRead (a : Addr) (b : Bus) : Byte × Bus := (b.state.readByte a, { b with log := b.log ++ [.read a] })

/-- `MemWrite(a, 1, v)` as an access (20_memory R42). -/
def busWrite (a : Addr) (v : Byte) (b : Bus) : Bus := { state := b.state.writeByte a v, log := b.log ++ [.write a v] }

/-- `MemRead(a, 2)`: the low byte is read first (20_memory R43; D17, unobservable). -/
def busReadWord (a : Addr) (b : Bus) : Addr × Bus :=
  let low := busRead a b
  let high := busRead (a + 1) low.2
  (word high.1 low.1, high.2)

/-- `fetchByte(addr)`: read, then PC +_16 1 and CYC + 1 (20_memory R46). -/
def fetchByte (addr : Addr) (b : Bus) : Byte × Bus :=
  let r := busRead addr b
  (r.1, { r.2 with state := r.2.state.advance 1 })

/-- `fetchWord(addr)`: read the word, then PC +_16 2 and CYC + 2 (20_memory R47). -/
def fetchWord (addr : Addr) (b : Bus) : Addr × Bus :=
  let r := busReadWord addr b
  (r.1, { r.2 with state := r.2.state.advance 2 })

/-- A load's behaviour: `v <- FetchByte()`, the register, `SetNZ(v)` (41_load_immediate R110 to R112). -/
def busLoad (set : State → Byte → State) (b : Bus) : Bus :=
  let f := fetchByte b.state.pc b
  { f.2 with state := (set f.2.state f.1).setNZ f.1 }

/-- The behaviour of INC and DEC: `a <- FetchWord()`, read, change, write, `SetNZ` (42_inc_dec R120, R121). -/
def busModify (change : Byte → Byte) (b : Bus) : Bus :=
  let f := fetchWord b.state.pc b
  let m := busRead f.1 f.2
  let w := busWrite f.1 (change m.1) m.2
  { w with state := w.state.setNZ (change m.1) }

/-- A store's behaviour: `a <- FetchWord()`; ASSIGN writes without reading, SUBTRACT reads and writes (43_store_absolute
R130 to R133). -/
def busStore (register : State → Byte) (b : Bus) : Bus :=
  let f := fetchWord b.state.pc b
  match f.2.state.storeMode with
  | .assign => busWrite f.1 (register f.2.state) f.2
  | .subtract =>
    let m := busRead f.1 f.2
    busWrite f.1 (sub8 m.1 (register m.2.state)) m.2

/-- The behaviour of each operation, which pulls its own operand bytes at PC (40_step R94, 20_memory R48). -/
def behaviour : Mnemonic → Bus → Bus
  | .sty, b => busStore State.yr b
  | .sta, b => busStore State.ac b
  | .stx, b => busStore State.xr b
  | .ldy, b => busLoad State.setYr b
  | .ldx, b => busLoad State.setXr b
  | .lda, b => busLoad State.setAc b
  | .dec, b => busModify dec8 b
  | .nop, b => b
  | .inc, b => busModify inc8 b

/-- `step()` as 40_step R91 writes it, items 1 to 4, with the report of R96. -/
def busStep (b : Bus) : Report × Bus :=
  let f := fetchByte b.state.pc b
  match lookup f.1 with
  | none => (.unknownOpcode f.1, { f.2 with state := f.2.state.clearIr })
  | some m => (.ok, behaviour m { f.2 with state := f.2.state.latchIr m })

/-- `reset()` as 70_reset R171 writes it: the vector is read with the plain word read. -/
def busReset (b : Bus) : Bus :=
  let v := busReadWord resetVector { b with state := { b.state with p := 0x00 } }
  { v.2 with state := { v.2.state with pc := v.1 } }

end Sys2Proof.Machine
end

