-- ==== Sys2Proof/Machine/HostPort.lean ====
section
/-!
DEFINITION. What the host can do to the machine between steps, and what it can see (00_scope section 6, 10_state R24,
20_memory R55, 70_reset R173, R174). Nothing can be done during a step: a step is one transition.
-/
namespace Sys2Proof.Machine

/-- `poke(addr, v)`: MemWrite and nothing else (20_memory R55, D9; assumption log 10). -/
def State.poke (s : State) (a : Addr) (v : Byte) : State := s.writeByte a v

/-- The commands that change the machine, besides `construct`, which comes once and first (70_reset R173). -/
inductive HostCommand where
  | poke (a : Addr) (v : Byte)
  | reset
  | step
  deriving DecidableEq, Repr

/-- A command, issued between steps (70_reset R174; `step()` also before the first `reset()`: 40_step R102, D10). -/
def hostDo (c : HostCommand) (s : State) : StepOutcome :=
  match c with
  | .poke a v => .next (s.poke a v)
  | .reset => .next s.cpuReset
  | .step => step s

/-- What the host can read besides memory: PC, AC, XR, YR, the status byte, the cycle counter, and the name and opcode of
the last decoded instruction or "none" (10_state R24). SP, HALT and the cost in the IR slot are not among them. -/
structure Introspection where
  pc  : Addr
  ac  : Byte
  xr  : Byte
  yr  : Byte
  p   : Byte
  cyc : Nat
  ir  : Option (String × Byte)
  deriving DecidableEq, Repr

/-- The read-only introspection of an idle machine (10_state R24, 60_exceptions R160). -/
def State.introspect (s : State) : Introspection :=
  { pc := s.pc, ac := s.ac, xr := s.xr, yr := s.yr, p := s.p, cyc := s.cyc, ir := s.ir.map (fun d => (d.name, d.opcode)) }

end Sys2Proof.Machine
end

