-- ==== Sys2Proof/Safety.lean ====
section
/-!
DEFINITION. What counts as a legal state and a safe run, in the terms the statements use.
-/
namespace Sys2Proof.Machine

/-- P is 0x00, 0x02 (Z) or 0x80 (N): the reachable status bytes (10_state, end of section 4). -/
def State.LegalStatus (s : State) : Prop := s.p = 0x00 ∨ s.p = 0x02 ∨ s.p = 0x80

/-- IR is none or the copy of a descriptor of the Instruction Table, its cost reduced by 1 (10_state R21). -/
def State.LegalIr (s : State) : Prop :=
  s.ir = none ∨ ∃ m : Mnemonic, s.ir = some ⟨Config.name m, m.opcode, Config.baseCost m - 1⟩

/-- SP is 0x0000 and HALT is 0 (10_state R12, R22). -/
def State.InertClear (s : State) : Prop := s.sp = 0x0000 ∧ s.halt = false

/-- The invariant of the machine: legal status, legal IR slot, inert state clear, memory in its canonical form. -/
structure State.Inv (s : State) : Prop where
  status : s.LegalStatus
  ir     : s.LegalIr
  inert  : s.InertClear
  memory : s.mem.wf

/-- The states a host can bring about: a machine is constructed with either STORE_MODE, then commands follow, in any
order and number (70_reset R170 to R174; assumption log 10). -/
inductive Reachable : State → Prop where
  | construct (mode : StoreMode) : Reachable { State.construct with storeMode := mode }
  | command {s t : State} (c : HostCommand) (before : Reachable s) (done : hostDo c s = .next t) : Reachable t

/-- The length of what the next step executes: fixed by the opcode byte at PC alone, 1 where it is unrecognised
(30_encoding R74). -/
def State.nextLength (s : State) : Nat :=
  match lookup (s.readByte s.pc) with
  | some m => m.length
  | none => 1

/-- The sum of the lengths of what the next `n` steps execute (40_step R100). -/
def State.runLength : Nat → State → Nat
  | 0, _ => 0
  | n + 1, s =>
    match step s with
    | .next t => s.nextLength + State.runLength n t
    | .fault _ => s.nextLength
    | .refused _ => s.nextLength

/-- A run of `n` steps none of which reports UNKNOWN_OPCODE: the premise a claim may add (60_exceptions R151, U5). -/
def State.RunsRecognised : Nat → State → Prop
  | 0, _ => True
  | n + 1, s => s.report = .ok ∧ ∀ t, step s = .next t → State.RunsRecognised n t

end Sys2Proof.Machine
end

