-- ==== Sys2Proof/Certificates/Slice0/Obligations.lean ====
section
/-!
DEFINITION. The statements about go-6502 CORE, each with the rule or section of spec/ it formalises. Where a clause rests on
a decision the spec marks as its own (D<n> of 92_eei_decisions) or on a choice of the model, the docstring names it and
the entry of the assumption log.
-/
open Sys2Proof Sys2Proof.Machine

/-! ### The nine instructions -/

/-- 41_load_immediate R110, LDA-immediate, for every operand and every state: the next state of the whole step (everything not listed is
unchanged), the encoding, and the step and its accesses wherever the bytes `0xA9, v` stand at PC. -/
def Obligations.LdaLoadsRegisterAndSetsNZ : Prop :=
  ∀ (v : Byte) (s : State),
    let t : State :=
      { s with ac := v, p := (s.p &&& 0x7D) ||| (if v = 0 then 0x02 else 0x00) ||| (v &&& 0x80), pc := s.pc + 2, cyc := s.cyc + 2,
               ir := some ⟨Config.name .lda, 0xA9, Config.baseCost .lda - 1⟩ }
    exec (.lda v) s = .next t ∧
    encode (.lda v) = [0xA9, v] ∧
    (s.readByte s.pc = 0xA9 → s.readByte (s.pc + 1) = v →
      step s = .next t ∧ (busStep ⟨s, []⟩).2.log = [.read s.pc, .read (s.pc + 1)])

/-- 41_load_immediate R111, LDX-immediate, for every operand and every state: the next state of the whole step (everything not listed is
unchanged), the encoding, and the step and its accesses wherever the bytes `0xA2, v` stand at PC. -/
def Obligations.LdxLoadsRegisterAndSetsNZ : Prop :=
  ∀ (v : Byte) (s : State),
    let t : State :=
      { s with xr := v, p := (s.p &&& 0x7D) ||| (if v = 0 then 0x02 else 0x00) ||| (v &&& 0x80), pc := s.pc + 2, cyc := s.cyc + 2,
               ir := some ⟨Config.name .ldx, 0xA2, Config.baseCost .ldx - 1⟩ }
    exec (.ldx v) s = .next t ∧
    encode (.ldx v) = [0xA2, v] ∧
    (s.readByte s.pc = 0xA2 → s.readByte (s.pc + 1) = v →
      step s = .next t ∧ (busStep ⟨s, []⟩).2.log = [.read s.pc, .read (s.pc + 1)])

/-- 41_load_immediate R112, LDY-immediate, for every operand and every state: the next state of the whole step (everything not listed is
unchanged), the encoding, and the step and its accesses wherever the bytes `0xA0, v` stand at PC. -/
def Obligations.LdyLoadsRegisterAndSetsNZ : Prop :=
  ∀ (v : Byte) (s : State),
    let t : State :=
      { s with yr := v, p := (s.p &&& 0x7D) ||| (if v = 0 then 0x02 else 0x00) ||| (v &&& 0x80), pc := s.pc + 2, cyc := s.cyc + 2,
               ir := some ⟨Config.name .ldy, 0xA0, Config.baseCost .ldy - 1⟩ }
    exec (.ldy v) s = .next t ∧
    encode (.ldy v) = [0xA0, v] ∧
    (s.readByte s.pc = 0xA0 → s.readByte (s.pc + 1) = v →
      step s = .next t ∧ (busStep ⟨s, []⟩).2.log = [.read s.pc, .read (s.pc + 1)])

/-- 42_inc_dec_absolute R120, INC-absolute, for every address and every state: the byte at `a` is incremented modulo 256, every other byte and
everything not listed is unchanged; the encoding; and the step and its accesses wherever the three bytes stand at PC. (At
PC 0xFFFE the high operand byte is the one at 0x0000: the rule's own corner case, by the word read of D2, log 7.) -/
def Obligations.IncChangesByteAndSetsNZ : Prop :=
  ∀ (a : Addr) (s : State), ∃ m : Memory,
    let r : Byte := s.readByte a + 1
    let t : State :=
      { s with mem := m, p := (s.p &&& 0x7D) ||| (if r = 0 then 0x02 else 0x00) ||| (r &&& 0x80), pc := s.pc + 3,
               cyc := s.cyc + 3, ir := some ⟨Config.name .inc, 0xEE, Config.baseCost .inc - 1⟩ }
    (∀ b : Addr, m.read b = if b = a then r else s.readByte b) ∧
    exec (.inc a) s = .next t ∧
    encode (.inc a) = [0xEE, a.extractLsb' 0 8, a.extractLsb' 8 8] ∧
    (s.readByte s.pc = 0xEE → s.readByte (s.pc + 2) ++ s.readByte (s.pc + 1) = a →
      step s = .next t ∧
      (busStep ⟨s, []⟩).2.log =
        [.read s.pc, .read (s.pc + 1), .read (s.pc + 2), .read a, .write a r])

/-- 42_inc_dec_absolute R121, DEC-absolute, for every address and every state: the byte at `a` is decremented modulo 256, every other byte and
everything not listed is unchanged; the encoding; and the step and its accesses wherever the three bytes stand at PC. (At
PC 0xFFFE the high operand byte is the one at 0x0000: the rule's own corner case, by the word read of D2, log 7.) -/
def Obligations.DecChangesByteAndSetsNZ : Prop :=
  ∀ (a : Addr) (s : State), ∃ m : Memory,
    let r : Byte := s.readByte a - 1
    let t : State :=
      { s with mem := m, p := (s.p &&& 0x7D) ||| (if r = 0 then 0x02 else 0x00) ||| (r &&& 0x80), pc := s.pc + 3,
               cyc := s.cyc + 3, ir := some ⟨Config.name .dec, 0xCE, Config.baseCost .dec - 1⟩ }
    (∀ b : Addr, m.read b = if b = a then r else s.readByte b) ∧
    exec (.dec a) s = .next t ∧
    encode (.dec a) = [0xCE, a.extractLsb' 0 8, a.extractLsb' 8 8] ∧
    (s.readByte s.pc = 0xCE → s.readByte (s.pc + 2) ++ s.readByte (s.pc + 1) = a →
      step s = .next t ∧
      (busStep ⟨s, []⟩).2.log =
        [.read s.pc, .read (s.pc + 1), .read (s.pc + 2), .read a, .write a r])

/-- 43_store_absolute, STA-absolute (section 2), for every address, every state and both values of STORE_MODE. Rests on the
spec's decisions D1 (what is written; log 1), D6 (no flag; log 6) and D23 (modulo 256; log 13). Everything not listed is
unchanged, the register and P among it. -/
def Obligations.StaStoresByMode : Prop :=
  ∀ (a : Addr) (s : State), ∃ m : Memory,
    let r : Byte := match s.storeMode with
      | .assign => s.ac
      | .subtract => s.readByte a - s.ac
    let t : State :=
      { s with mem := m, pc := s.pc + 3, cyc := s.cyc + 3,
               ir := some ⟨Config.name .sta, 0x8D, Config.baseCost .sta - 1⟩ }
    (∀ b : Addr, m.read b = if b = a then r else s.readByte b) ∧
    exec (.sta a) s = .next t ∧
    encode (.sta a) = [0x8D, a.extractLsb' 0 8, a.extractLsb' 8 8] ∧
    (s.readByte s.pc = 0x8D → s.readByte (s.pc + 2) ++ s.readByte (s.pc + 1) = a →
      step s = .next t ∧
      (busStep ⟨s, []⟩).2.log =
        [.read s.pc, .read (s.pc + 1), .read (s.pc + 2)] ++
          (match s.storeMode with
            | .assign => [.write a r]
            | .subtract => [.read a, .write a r]))

/-- 43_store_absolute, STX-absolute (section 2), for every address, every state and both values of STORE_MODE. Rests on the
spec's decisions D1 (what is written; log 1), D6 (no flag; log 6) and D23 (modulo 256; log 13). Everything not listed is
unchanged, the register and P among it. -/
def Obligations.StxStoresByMode : Prop :=
  ∀ (a : Addr) (s : State), ∃ m : Memory,
    let r : Byte := match s.storeMode with
      | .assign => s.xr
      | .subtract => s.readByte a - s.xr
    let t : State :=
      { s with mem := m, pc := s.pc + 3, cyc := s.cyc + 3,
               ir := some ⟨Config.name .stx, 0x8E, Config.baseCost .stx - 1⟩ }
    (∀ b : Addr, m.read b = if b = a then r else s.readByte b) ∧
    exec (.stx a) s = .next t ∧
    encode (.stx a) = [0x8E, a.extractLsb' 0 8, a.extractLsb' 8 8] ∧
    (s.readByte s.pc = 0x8E → s.readByte (s.pc + 2) ++ s.readByte (s.pc + 1) = a →
      step s = .next t ∧
      (busStep ⟨s, []⟩).2.log =
        [.read s.pc, .read (s.pc + 1), .read (s.pc + 2)] ++
          (match s.storeMode with
            | .assign => [.write a r]
            | .subtract => [.read a, .write a r]))

/-- 43_store_absolute, STY-absolute (section 2), for every address, every state and both values of STORE_MODE. Rests on the
spec's decisions D1 (what is written; log 1), D6 (no flag; log 6) and D23 (modulo 256; log 13). Everything not listed is
unchanged, the register and P among it. -/
def Obligations.StyStoresByMode : Prop :=
  ∀ (a : Addr) (s : State), ∃ m : Memory,
    let r : Byte := match s.storeMode with
      | .assign => s.yr
      | .subtract => s.readByte a - s.yr
    let t : State :=
      { s with mem := m, pc := s.pc + 3, cyc := s.cyc + 3,
               ir := some ⟨Config.name .sty, 0x8C, Config.baseCost .sty - 1⟩ }
    (∀ b : Addr, m.read b = if b = a then r else s.readByte b) ∧
    exec (.sty a) s = .next t ∧
    encode (.sty a) = [0x8C, a.extractLsb' 0 8, a.extractLsb' 8 8] ∧
    (s.readByte s.pc = 0x8C → s.readByte (s.pc + 2) ++ s.readByte (s.pc + 1) = a →
      step s = .next t ∧
      (busStep ⟨s, []⟩).2.log =
        [.read s.pc, .read (s.pc + 1), .read (s.pc + 2)] ++
          (match s.storeMode with
            | .assign => [.write a r]
            | .subtract => [.read a, .write a r]))

/-- 44_nop R140: NOP does nothing beyond the opcode fetch and the IR slot, and reports OK. -/
def Obligations.NopOnlyAdvances : Prop :=
  ∀ s : State,
    let t : State :=
      { s with pc := s.pc + 1, cyc := s.cyc + 1, ir := some ⟨Config.name .nop, 0xEA, Config.baseCost .nop - 1⟩ }
    exec .nop s = .next t ∧
    encode .nop = [0xEA] ∧
    (s.readByte s.pc = 0xEA →
      step s = .next t ∧ s.report = .ok ∧ (busStep ⟨s, []⟩).2.log = [.read s.pc])

/-! ### Decoding and encoding -/

/-- Decoding what the encoder wrote gives the instruction back, with every operand, whatever follows it (30_encoding,
sections 1 to 3). -/
def Obligations.DecodeOfEncode : Prop :=
  ∀ (i : Instr) (rest : List Byte), decode (encode i ++ rest) = .ok (i, rest)

/-- No byte is dropped: whatever the decoder accepts is the encoding of what it answers (30_encoding, sections 1 to 3). -/
def Obligations.EncodeOfDecode : Prop :=
  ∀ (bytes rest : List Byte) (i : Instr), decode bytes = .ok (i, rest) → bytes = encode i ++ rest

/-- 30_encoding R76 and R77: an immediate is the byte after the opcode as it stands, and an absolute address is
byte2 * 256 + byte1. -/
def Obligations.OperandAssembly : Prop :=
  (∀ (v : Byte) (rest : List Byte),
    decode (0xA9 :: v :: rest) = .ok (.lda v, rest) ∧
    decode (0xA2 :: v :: rest) = .ok (.ldx v, rest) ∧
    decode (0xA0 :: v :: rest) = .ok (.ldy v, rest)) ∧
  (∀ (byte1 byte2 : Byte) (rest : List Byte), ∃ a : Addr,
    a.toNat = byte2.toNat * 256 + byte1.toNat ∧
    decode (0xEE :: byte1 :: byte2 :: rest) = .ok (.inc a, rest) ∧
    decode (0xCE :: byte1 :: byte2 :: rest) = .ok (.dec a, rest) ∧
    decode (0x8D :: byte1 :: byte2 :: rest) = .ok (.sta a, rest) ∧
    decode (0x8E :: byte1 :: byte2 :: rest) = .ok (.stx a, rest) ∧
    decode (0x8C :: byte1 :: byte2 :: rest) = .ok (.sty a, rest))

/-- 00_scope R2: the instruction set is exactly the nine opcodes, and every other opcode byte is unrecognised, which the
step handles by R92. -/
def Obligations.InstructionSetClosed : Prop :=
  ∀ op : Byte,
    (∀ m : Mnemonic, lookup op = some m ↔
      (op, m) ∈ [((0xA9 : Byte), Mnemonic.lda), (0xA2, .ldx), (0xA0, .ldy), (0xEA, .nop), (0xCE, .dec), (0xEE, .inc),
        (0x8D, .sta), (0x8E, .stx), (0x8C, .sty)]) ∧
    (op ∉ [(0xA9 : Byte), 0xA2, 0xA0, 0xEA, 0xCE, 0xEE, 0x8D, 0x8E, 0x8C] →
      ∀ s : State, s.readByte s.pc = op →
        step s = .next { s with pc := s.pc + 1, cyc := s.cyc + 1, ir := none })

/-- 30_encoding R79: the unrecognised bytes are exactly the listed ranges; all behave alike. -/
def Obligations.UnrecognisedRanges : Prop :=
  ∀ op : Byte,
    let n := op.toNat
    ((n ≤ 0x8B ∨ (0x8F ≤ n ∧ n ≤ 0x9F) ∨ n = 0xA1 ∨ (0xA3 ≤ n ∧ n ≤ 0xA8) ∨ (0xAA ≤ n ∧ n ≤ 0xCD) ∨
        (0xCF ≤ n ∧ n ≤ 0xE9) ∨ (0xEB ≤ n ∧ n ≤ 0xED) ∨ 0xEF ≤ n) ↔
      op ∉ [(0xA9 : Byte), 0xA2, 0xA0, 0xEA, 0xCE, 0xEE, 0x8D, 0x8E, 0x8C]) ∧
    (op ∉ [(0xA9 : Byte), 0xA2, 0xA0, 0xEA, 0xCE, 0xEE, 0x8D, 0x8E, 0x8C] →
      (∀ rest : List Byte, decode (op :: rest) = .error (.unrecognised op)) ∧
      ∀ s : State, s.readByte s.pc = op →
        step s = .next { s with pc := s.pc + 1, cyc := s.cyc + 1, ir := none })

/-- A table that repeats no opcode gives an opcode one row, and the Instruction Table is such a table (30_encoding,
section 3; 93_implementation_defined U2; the constant table is the spec's decision D16, log 20). -/
def Obligations.TableRowsDetermined : Prop :=
  tableWellFormed instructionTable = true ∧
  ∀ table : List TableRow, tableWellFormed table = true →
    ∀ r ∈ table, ∀ q ∈ table, r.opcode = q.opcode → r = q

/-- Words written out from the encodings of 30_encoding, one for each operation (its section 2 and 95_test_vectors V1 to
V4), decode to it. The last two clauses are about decodeTableWord: that byte k is bits 8k+7 to 8k, and that the operand
bits above `nbits` are zero, is the MODEL'S choice (log 17), not the spec's. -/
def Obligations.SampleWordsDecode : Prop :=
  decode [0b10101001, 0xFF] = .ok (.lda 0xFF, []) ∧
  decode [0b10100010, 0x80] = .ok (.ldx 0x80, []) ∧
  decode [0b10100000, 0x7F] = .ok (.ldy 0x7F, []) ∧
  decode [0b11001110, 0xAB, 0xCD] = .ok (.dec 0xCDAB, []) ∧
  decode [0b11101110, 0x34, 0x12] = .ok (.inc 0x1234, []) ∧
  decode [0b10001101, 0x00, 0x03] = .ok (.sta 0x0300, []) ∧
  decode [0b10001110, 0x01, 0x03] = .ok (.stx 0x0301, []) ∧
  decode [0b10001100, 0x02, 0x03] = .ok (.sty 0x0302, []) ∧
  decode [0b11101010, 0x00] = .ok (.nop, [0x00]) ∧
  decodeTableWord 24 0xCDABCE = some (.dec 0xCDAB) ∧
  decodeTableWord 8 0xA9 = some (.lda 0x00)

/-! ### The step -/

/-- When the bytes at PC decode to an instruction, the step is exec of that instruction at that state: exec is the whole
step, so nothing stands around it (40_step, section 2; log 15). When the opcode is unrecognised, the step skips one
byte. -/
def Obligations.StepRunsDecoded : Prop :=
  ∀ s : State,
    (∀ (i : Instr) (rest : List Byte), decode s.fetchWindow = .ok (i, rest) → step s = exec i s) ∧
    (∀ e : DecodeError, decode s.fetchWindow = .error e → e = .unrecognised (s.readByte s.pc) ∧ step s = .next s.skipUnrecognised)

/-- 40_step R91: the machine's step is `step()` as the rule writes it (Machine/Bus.lean, busStep: FetchByte, lookup, IR,
then the behaviour, which pulls its own operand bytes), in state and in report. -/
def Obligations.StepIsFetchDecodeExecute : Prop :=
  ∀ s : State,
    let opcode := fetchByte s.pc ⟨s, []⟩
    step s = .next (busStep ⟨s, []⟩).2.state ∧
    s.report = (busStep ⟨s, []⟩).1 ∧
    (lookup opcode.1 = none →
      step s = .next { opcode.2.state with ir := none } ∧ s.report = .unknownOpcode opcode.1) ∧
    (∀ m : Mnemonic, lookup opcode.1 = some m →
      step s = .next (behaviour m { opcode.2 with
        state := { opcode.2.state with ir := some ⟨Config.name m, opcode.1, Config.baseCost m - 1⟩ } }).state ∧
      s.report = .ok)

/-- 40_step R92: the complete effect of the step at an unrecognised opcode. -/
def Obligations.UnrecognisedOpcodeSkipped : Prop :=
  ∀ s : State, lookup (s.readByte s.pc) = none →
    step s = .next { s with pc := s.pc + 1, cyc := s.cyc + 1, ir := none } ∧
    (busStep ⟨s, []⟩).2.log = [.read s.pc]

/-- 40_step R93: after a recognised opcode IR holds the name, the opcode byte and the base cost less 1; the base cost is not
added to CYC, which grows by the length alone; and what the slot held before is never read. -/
def Obligations.RecognisedOpcodeLatched : Prop :=
  ∀ (s : State) (m : Mnemonic), lookup (s.readByte s.pc) = some m →
    1 ≤ Config.baseCost m ∧
    ∃ t : State, step s = .next t ∧
      t.ir = some ⟨Config.name m, s.readByte s.pc, Config.baseCost m - 1⟩ ∧
      t.cyc = s.cyc + m.length ∧
      ∀ slot : Option DecodedInstr, step { s with ir := slot } = .next t

/-- The report of a step is UNKNOWN_OPCODE of the byte at the pre-step PC exactly when IR is none after it (40_step,
section 2; the report is the spec's decision D5, log 5). -/
def Obligations.ReportTellsIrAfter : Prop :=
  ∀ s : State, ∃ t : State, step s = .next t ∧
    (s.report = .unknownOpcode (s.readByte s.pc) ↔ t.ir = none) ∧
    (s.report = .ok ↔ t.ir ≠ none) ∧
    (∀ op : Byte, s.report = .unknownOpcode op → op = s.readByte s.pc)

/-- Nothing faults (60_exceptions section 1): every instruction in every state, and every step in every state, answers a next
state. The last clause says the same of the host's commands; that they may come in any state, a step before the first
reset() too, is the spec's decisions D9 and D10 (log 10). -/
def Obligations.NothingFaults : Prop :=
  (∀ (i : Instr) (s : State), ∃ t : State, exec i s = .next t) ∧
  (∀ s : State, ∃ t : State, step s = .next t) ∧
  (∀ (c : HostCommand) (s : State), ∃ t : State, hostDo c s = .next t)

/-- A step makes one to five accesses, and the accesses are those of the table of 20_memory section 5, in its order (the
absence of other accesses is the spec's decision D18, the low byte first D17, log 12; what a store does in each STORE_MODE
is D1, log 1). -/
def Obligations.AccessesOfEachOperation : Prop :=
  ∀ (s : State),
    let log := (busStep ⟨s, []⟩).2.log
    let a : Addr := s.readByte (s.pc + 2) ++ s.readByte (s.pc + 1)
    let three : List Access := [.read s.pc, .read (s.pc + 1), .read (s.pc + 2)]
    (1 ≤ log.length ∧ log.length ≤ 5) ∧
    (lookup (s.readByte s.pc) = none → log = [.read s.pc]) ∧
    (∀ m : Mnemonic, lookup (s.readByte s.pc) = some m →
      (m.format = .imp → log = [.read s.pc]) ∧
      (m.format = .imm → log = [.read s.pc, .read (s.pc + 1)]) ∧
      (m = .inc ∨ m = .dec → ∃ v, log = three ++ [.read a, .write a v]) ∧
      (m = .sta ∨ m = .stx ∨ m = .sty → s.storeMode = .assign → ∃ v, log = three ++ [.write a v]) ∧
      (m = .sta ∨ m = .stx ∨ m = .sty → s.storeMode = .subtract → ∃ v, log = three ++ [.read a, .write a v]))

/-- 30_encoding R74 and 10_state R13: the length is fixed by the opcode byte alone, in the decoder and in the step; PC
advances by it modulo 65,536; the host's poke leaves PC alone and reset() loads the vector. -/
def Obligations.LengthFixedByOpcode : Prop :=
  let len : Byte → Nat := fun op =>
    if op = 0xEA then 1
    else if op ∈ [(0xA9 : Byte), 0xA2, 0xA0] then 2
    else if op ∈ [(0xCE : Byte), 0xEE, 0x8D, 0x8E, 0x8C] then 3
    else 1
  (∀ (op : Byte) (bytes rest : List Byte) (i : Instr), decode (op :: bytes) = .ok (i, rest) →
    (op :: bytes).length = len op + rest.length) ∧
  (∀ s : State, ∃ t : State, step s = .next t ∧
    t.pc.toNat = (s.pc.toNat + len (s.readByte s.pc)) % 65536) ∧
  (∀ (s : State) (a : Addr) (v : Byte), (s.poke a v).pc = s.pc) ∧
  (∀ s : State, s.cpuReset.pc = s.readByte 0xFFFD ++ s.readByte 0xFFFC)

/-- 40_step R100: a run of any number of steps from any state completes, and moves PC by the sum of the lengths executed,
modulo 65,536: no instruction transfers control. Of the host's commands only reset() moves PC elsewhere. -/
def Obligations.RunsAreSequential : Prop :=
  (∀ (n : Nat) (s : State), ∃ t : State, Host.Core.run Sys2Proof.core n s = .next t ∧
    t.pc.toNat = (s.pc.toNat + s.runLength n) % 65536) ∧
  (∀ (c : HostCommand) (s t : State), hostDo c s = .next t → c ≠ .reset →
    t.pc.toNat = (s.pc.toNat + (if c = .step then s.nextLength else 0)) % 65536)

/-- CYC counts the bytes of the instruction stream (10_state section 5; its unbounded width is the spec's decision D3,
log 2): a run of n steps adds the sum of the lengths, which lies between n and 3 n; poke and reset() add nothing. That
reset() leaves CYC unchanged is the spec's decision D8 (70_reset section 2; log 9). -/
def Obligations.CycCountsBytesFetched : Prop :=
  (∀ (n : Nat) (s : State), ∃ t : State, Host.Core.run Sys2Proof.core n s = .next t ∧
    t.cyc = s.cyc + s.runLength n ∧ n ≤ s.runLength n ∧ s.runLength n ≤ 3 * n) ∧
  (∀ (s : State) (a : Addr) (v : Byte), (s.poke a v).cyc = s.cyc) ∧
  (∀ s : State, s.cpuReset.cyc = s.cyc)

/-- A run whose steps all report OK completes, and after it IR holds the descriptor of one of the nine operations
(60_exceptions section 1, 93_implementation_defined U5: the premise a claim may add; the report is log 5). -/
def Obligations.RecognisedRunEndsDecoded : Prop :=
  ∀ (n : Nat) (s : State), State.RunsRecognised (n + 1) s →
    ∃ t : State, Host.Core.run Sys2Proof.core (n + 1) s = .next t ∧ t.LegalIr ∧ t.ir ≠ none

/-! ### Memory -/

/-- The fetch primitives at any address (20_memory section 2; what a word read is: ReadWordLittleEndian). That fetchWord
reads the low byte first is the spec's decision D17 (20_memory section 1; log 12). -/
def Obligations.FetchPrimitives : Prop :=
  ∀ (addr : Addr) (b : Bus),
    fetchByte addr b =
      (b.state.readByte addr,
        ⟨{ b.state with pc := b.state.pc + 1, cyc := b.state.cyc + 1 }, b.log ++ [.read addr]⟩) ∧
    fetchWord addr b =
      (b.state.readWord addr,
        ⟨{ b.state with pc := b.state.pc + 2, cyc := b.state.cyc + 2 }, b.log ++ [.read addr, .read (addr + 1)]⟩)

/-- 20_memory R42: after a byte write the byte reads as written, every other byte is unchanged, and nothing but memory
changes. -/
def Obligations.WriteThenRead : Prop :=
  ∀ (s : State) (a : Addr) (v : Byte),
    (s.writeByte a v).readByte a = v ∧
    (∀ b : Addr, b ≠ a → (s.writeByte a v).readByte b = s.readByte b) ∧
    ∃ m : Memory, s.writeByte a v = { s with mem := m }

/-- A word read is little-endian (20_memory sections 1 and 3), and takes the high byte of the word at 0xFFFF from 0x0000
(the spec's decision D2, log 7). -/
def Obligations.ReadWordLittleEndian : Prop :=
  ∀ (s : State) (a : Addr),
    (∀ h : Addr, h.toNat = (a.toNat + 1) % 65536 →
      (s.readWord a).toNat = (s.readByte h).toNat * 256 + (s.readByte a).toNat) ∧
    (s.readWord 0xFFFF).toNat = (s.readByte 0x0000).toNat * 256 + (s.readByte 0xFFFF).toNat

/-- Canonical memories that read alike are equal data (10_state section 8; the representation is the model's choice,
log 14). -/
def Obligations.MemoryIsItsBytes : Prop :=
  ∀ m n : Memory, m.wf → n.wf → (∀ a : Addr, m.read a = n.read a) → m = n

/-- Writes are idempotent: writing the byte already there changes nothing, and writing twice is writing once (20_memory
section 5; canonical form: log 14). -/
def Obligations.WritesIdempotent : Prop :=
  ∀ (s : State) (a : Addr) (v w : Byte), s.mem.wf →
    s.writeByte a (s.readByte a) = s ∧ (s.writeByte a v).writeByte a w = s.writeByte a w

/-- A step changes at most the one byte its instruction stores to (20_memory section 5, 95_test_vectors invariant 4): the
address is the one decoded with the instruction, and no byte changes when the instruction stores nothing or the opcode
is unrecognised. -/
def Obligations.StepWritesOnlyItsAddress : Prop :=
  ∀ s t : State, step s = .next t →
    (∀ e : DecodeError, decode s.fetchWindow = .error e → t.mem = s.mem) ∧
    (∀ (i : Instr) (rest : List Byte), decode s.fetchWindow = .ok (i, rest) →
      (i.storesTo = none → t.mem = s.mem) ∧
      (∀ a : Addr, i.storesTo = some a → ∀ b : Addr, b ≠ a → t.readByte b = s.readByte b))

/-- STA to the address of the next opcode (PC + 3): the byte it writes is what the next step fetches, in both modes
(20_memory section 10, 95_test_vectors P9). What it writes rests on the spec's decisions D1 and D23 (43_store_absolute
section 1; log 1 and 13), the report on D5 (log 5). -/
def Obligations.StoreSeenByNextFetch : Prop :=
  ∀ (s : State), ∃ t : State,
    exec (.sta (s.pc + 3)) s = .next t ∧
    t.fetchWindow.head? = some (match s.storeMode with
      | .assign => s.ac
      | .subtract => s.readByte (s.pc + 3) - s.ac) ∧
    (s.storeMode = .assign → s.ac = 0xEA → t.report = .ok ∧ step t = exec .nop t) ∧
    (s.storeMode = .assign → lookup s.ac = none → step t = .next t.skipUnrecognised)

/-- INC a followed by DEC a, or DEC a followed by INC a, restores every byte of memory (42_inc_dec, notes). -/
def Obligations.IncDecRestoreMemory : Prop :=
  ∀ (a : Addr) (s : State),
    (∃ t u : State, exec (.inc a) s = .next t ∧ exec (.dec a) t = .next u ∧ ∀ b : Addr, u.readByte b = s.readByte b) ∧
    (∃ t u : State, exec (.dec a) s = .next t ∧ exec (.inc a) t = .next u ∧ ∀ b : Addr, u.readByte b = s.readByte b)

/-! ### The status register and the ALU -/

/-- 10_state R16 and R17: SetFlag writes its own bit, set or clear, and no other; GetFlag reads it; setting and then
clearing a flag leaves every other flag as it was. -/
def Obligations.FlagsAreIndependentBits : Prop :=
  let position : Flag → Nat := fun
    | .n => 7 | .v => 6 | .b => 4 | .d => 3 | .i => 2 | .z => 1 | .c => 0
  ∀ (f : Flag) (b : Bool) (p : Byte),
    (∀ k : Nat, k < 8 → (setFlag f b p).getLsbD k = if k = position f then b else p.getLsbD k) ∧
    getFlag f p = p.getLsbD (position f) ∧
    (∀ g : Flag, g ≠ f → getFlag g (setFlag f false (setFlag f true p)) = getFlag g p)

/-- 40_step R97: SetNZ writes Z and N both, from the value, and no other bit; never both set. -/
def Obligations.SetNZWritesBoth : Prop :=
  ∀ (s : State) (v : Byte),
    (∀ k : Nat, k < 8 →
      (s.setNZ v).p.getLsbD k = if k = 1 then decide (v = 0x00) else if k = 7 then v.getLsbD 7 else s.p.getLsbD k) ∧
    ¬((s.setNZ v).p.getLsbD 1 = true ∧ (s.setNZ v).p.getLsbD 7 = true) ∧
    ∃ q : Byte, s.setNZ v = { s with p := q }

/-- 40_step R98: INC8 and DEC8 wrap modulo 256, silently: applied any number of times (once is the rule itself). -/
def Obligations.IncDecWrapModulo256 : Prop :=
  ∀ (n : Nat) (v : Byte),
    (inc8^[n] v).toNat = (v.toNat + n) % 256 ∧ (dec8^[n] v).toNat = (v.toNat + 255 * n) % 256

/-- What a store writes in each mode (43_store_absolute section 1; the spec's decisions D1 and D23, log 1 and 13), and
when the two modes agree (its notes on the family): exactly when the old byte is twice the register, modulo 256. -/
def Obligations.StoreValueOfEachMode : Prop :=
  ∀ m r : Byte,
    storeValue .assign m r = r ∧
    (storeValue .subtract m r).toNat = (m.toNat + 256 - r.toNat) % 256 ∧
    (storeValue .assign m r = storeValue .subtract m r ↔ m.toNat = 2 * r.toNat % 256)

/-- Which instructions write which bits of P (10_state section 4; that the stores write none is the spec's decision D6,
log 6): bits other than N and Z never change, and the stores, NOP and unrecognised opcodes change no bit. -/
def Obligations.OnlyNAndZAreWritten : Prop :=
  (∀ (i : Instr) (s t : State), exec i s = .next t →
    t.p &&& 0x7D = s.p &&& 0x7D ∧
    (match i with
      | .sty _ => t.p = s.p
      | .sta _ => t.p = s.p
      | .stx _ => t.p = s.p
      | .nop => t.p = s.p
      | .ldy imm => t.p &&& 0x82 = (if imm = 0 then 0x02 else imm &&& 0x80)
      | .ldx imm => t.p &&& 0x82 = (if imm = 0 then 0x02 else imm &&& 0x80)
      | .lda imm => t.p &&& 0x82 = (if imm = 0 then 0x02 else imm &&& 0x80)
      | .dec a => t.p &&& 0x82 = (if t.readByte a = 0 then 0x02 else t.readByte a &&& 0x80)
      | .inc a => t.p &&& 0x82 = (if t.readByte a = 0 then 0x02 else t.readByte a &&& 0x80))) ∧
  (∀ s : State, lookup (s.readByte s.pc) = none → ∃ t : State, step s = .next t ∧ t.p = s.p)

/-- Which instruction writes which register (10_state R11): AC by LDA only, XR by LDX only, YR by LDY only, each from its
operand; each is read by its own store only; the host reads all three and writes none; an unrecognised opcode writes
none. -/
def Obligations.RegistersHaveOneWriterAndOneReader : Prop :=
  (∀ (i : Instr) (s t : State), exec i s = .next t →
    (t.ac = match i with | .lda imm => imm | _ => s.ac) ∧
    (t.xr = match i with | .ldx imm => imm | _ => s.xr) ∧
    (t.yr = match i with | .ldy imm => imm | _ => s.yr)) ∧
  (∀ (i : Instr) (s t : State) (v : Byte), exec i s = .next t →
    ((∀ a : Addr, i ≠ .sta a) → ∃ t' : State, exec i { s with ac := v } = .next t' ∧ { t' with ac := t.ac } = t) ∧
    ((∀ a : Addr, i ≠ .stx a) → ∃ t' : State, exec i { s with xr := v } = .next t' ∧ { t' with xr := t.xr } = t) ∧
    ((∀ a : Addr, i ≠ .sty a) → ∃ t' : State, exec i { s with yr := v } = .next t' ∧ { t' with yr := t.yr } = t)) ∧
  (∀ s : State, s.introspect.ac = s.ac ∧ s.introspect.xr = s.xr ∧ s.introspect.yr = s.yr) ∧
  (∀ (c : HostCommand) (s t : State), hostDo c s = .next t → (c = .step → lookup (s.readByte s.pc) = none) →
    t.ac = s.ac ∧ t.xr = s.xr ∧ t.yr = s.yr)

/-! ### State that influences nothing -/

/-- P, CYC, IR, SP and HALT influence no step (10_state sections 4 to 7 and 11): two states that differ in them only
step to states with the same PC, registers, memory and IR, the same bytes counted, and the same report. That HALT and SP
influence nothing is the spec's decisions D7 and D11 (log 8); the report is D5 (40_step section 2; log 5). -/
def Obligations.HiddenStateInfluencesNothing : Prop :=
  ∀ (s t : State) (q : Byte) (n : Nat) (slot : Option DecodedInstr) (x : Addr) (h : Bool),
    step s = .next t →
    let s' : State := { s with p := q, cyc := n, ir := slot, sp := x, halt := h }
    s'.report = s.report ∧
    ∃ t' : State, step s' = .next t' ∧
      t'.pc = t.pc ∧ t'.ac = t.ac ∧ t'.xr = t.xr ∧ t'.yr = t.yr ∧ t'.mem = t.mem ∧ t'.ir = t.ir ∧
      t'.cyc + s.cyc = t.cyc + n ∧ t'.sp = x ∧ t'.halt = h

/-- No host command, a step among them, changes SP or HALT (10_state sections 2 and 7; the spec's decisions D7 and D11,
log 8; for HALT across reset() D8, log 9) or STORE_MODE, "fixed for the lifetime of a machine" (43_store_absolute section 1;
a parameter by D1, a field of State by the model's choice, log 1). -/
def Obligations.InertStateKept : Prop :=
  ∀ (c : HostCommand) (s t : State), hostDo c s = .next t →
    t.sp = s.sp ∧ t.halt = s.halt ∧ t.storeMode = s.storeMode

/-! ### Reset and the host -/

/-- The constructed machine is blank and `reset()` on it gives State.reset (70_reset sections 1 and 2; IR none and HALT
clear are the spec's decisions D8 and D7, log 8 and 9; State.reset as construction followed by reset() is log 11). The
model's STORE_MODE field is left out: no statement rests on its value. -/
def Obligations.ResetLeavesBlankMachine : Prop :=
  State.construct.cpuReset = State.reset ∧
  (State.reset.pc = 0x0000 ∧ State.reset.ac = 0x00 ∧ State.reset.xr = 0x00 ∧ State.reset.yr = 0x00 ∧
    State.reset.sp = 0x0000 ∧ State.reset.p = 0x00 ∧ State.reset.cyc = 0 ∧ State.reset.ir = none ∧
    State.reset.halt = false) ∧
  ∀ a : Addr, State.reset.readByte a = 0x00

/-- `reset()` clears P and loads PC with the little-endian word at 0xFFFC/0xFFFD; all else, memory, registers, CYC, IR and
HALT among it, is unchanged (70_reset section 2; for CYC, IR and HALT by the spec's decision D8, log 9); its accesses are
the two reads of the vector, the low byte first by the spec's decision D17 (log 12). -/
def Obligations.ResetCommandEffect : Prop :=
  ∀ s : State,
    s.cpuReset = { s with p := 0x00, pc := s.readByte 0xFFFD ++ s.readByte 0xFFFC } ∧
    busReset ⟨s, []⟩ = ⟨s.cpuReset, [.read 0xFFFC, .read 0xFFFD]⟩

/-- 70_reset R172: reset() may be issued in any state; twice in a row yields the same PC and the all-clear status both
times; execution continues at the vector with registers and memory as they were. -/
def Obligations.ResetCommandIdempotent : Prop :=
  ∀ s t : State, hostDo .reset s = .next t →
    t.p = 0x00 ∧ t.pc = s.readByte 0xFFFD ++ s.readByte 0xFFFC ∧
    t.ac = s.ac ∧ t.xr = s.xr ∧ t.yr = s.yr ∧ t.mem = s.mem ∧
    t.fetchWindow.head? = some (s.readByte (s.readByte 0xFFFD ++ s.readByte 0xFFFC)) ∧
    hostDo .reset t = .next t

/-- A poke has the effect of a byte write and changes nothing else; the next step sees it (20_memory section 8; between any
two steps by the spec's decision D9, log 10). -/
def Obligations.PokeEffect : Prop :=
  ∀ (s : State) (a : Addr) (v : Byte), ∃ m : Memory,
    hostDo (.poke a v) s = .next { s with mem := m } ∧ ∀ b : Addr, m.read b = if b = a then v else s.readByte b

/-- 10_state R24: what the host reads between steps; SP, HALT and the cost in the IR slot are not observable, and a poke
changes memory bytes, no register. -/
def Obligations.HostSeesIntrospection : Prop :=
  ∀ s : State,
    s.introspect.pc = s.pc ∧ s.introspect.ac = s.ac ∧ s.introspect.xr = s.xr ∧ s.introspect.yr = s.yr ∧
    s.introspect.p = s.p ∧ s.introspect.cyc = s.cyc ∧
    (s.introspect.ir = none ↔ s.ir = none) ∧
    (∀ d : DecodedInstr, s.ir = some d → s.introspect.ir = some (d.name, d.opcode)) ∧
    (∀ (x : Addr) (h : Bool) (c : Nat),
      State.introspect { s with sp := x, halt := h, ir := s.ir.map (fun d => { d with cost := c }) } = s.introspect) ∧
    (∀ (a : Addr) (v : Byte), (s.poke a v).introspect = s.introspect)

/-! ### Invariants -/

/-- The memory stays in its canonical form under every instruction and every host command (10_state section 8; log 14). -/
def Obligations.MemoryFormKept : Prop :=
  (∀ (i : Instr) (s t : State), s.mem.wf → exec i s = .next t → t.mem.wf) ∧
  (∀ (c : HostCommand) (s t : State), s.mem.wf → hostDo c s = .next t → t.mem.wf)

/-- Every step keeps the invariant: P is 0x00, 0x02 or 0x80; IR is none or a table row with its cost less 1; SP and HALT
are zero; memory is canonical (10_state sections 2, 4, 6, 7 and 8; 95_test_vectors invariants 1 and 6; the reachable values
are the spec's inference, log 16; SP and HALT inert are its decisions D11 and D7, log 8; the canonical form is the model's
choice, log 14). -/
def Obligations.StepKeepsInvariant : Prop :=
  ∀ s t : State, s.Inv → step s = .next t → t.Inv

/-- The invariant holds at State.reset (70_reset sections 1 and 2): IR none and HALT clear there are the spec's decisions D8
and D7 (log 9 and 8), State.reset as construction followed by reset() and the canonical form of memory are the model's
choices (log 11 and 14). -/
def Obligations.ResetMeetsInvariant : Prop := State.reset.Inv

/-- The invariant holds in every state a host can bring about, whichever STORE_MODE the machine has and whatever the
host pokes and when it resets (10_state sections 2, 4, 6 and 7; 70_reset section 3). The commands in any order are the
spec's decisions D9 and D10 (log 10), IR none and HALT clear at construction D8 and D7 (log 9 and 8), SP inert D11 (log 8), the reachable
values its inference (log 16), the canonical form the model's choice (log 14). -/
def Obligations.ReachableStatesMeetInvariant : Prop := ∀ s : State, Reachable s → s.Inv

/-- Every host command, in every state that meets the invariant, keeps it: a poke of any byte, reset() and a step; and the
constructed machine meets it with either STORE_MODE (10_state sections 2, 4, 6, 7 and 8; 70_reset sections 1 to 3). The
commands in any order are the spec's decisions D9 and D10 (log 10), what reset() leaves of IR and HALT and their values at
construction D8 and D7 (log 9 and 8), SP inert D11 (log 8), the reachable values its inference (log 16), the canonical
form the model's choice (log 14). -/
def Obligations.EveryCommandKeepsInvariant : Prop :=
  (∀ mode : StoreMode, State.Inv { State.construct with storeMode := mode }) ∧
  ∀ (c : HostCommand) (s t : State), s.Inv → hostDo c s = .next t → t.Inv
end

