-- ==== Sys2Proof/Laws/Decode.lean ====
section
/-!
SUPPORT. The Instruction Table and the opcode function agree.
-/
namespace Sys2Proof

/-- The table maps each operation's opcode byte back to it (30_encoding R78). -/
theorem lookup_opcode (m : Mnemonic) : lookup m.opcode = some m := by cases m <;> rfl

/-- The table finds an operation at its own opcode byte only (30_encoding R75, R80). -/
theorem opcode_of_lookup {op : Byte} {m : Mnemonic} (h : lookup op = some m) : op = m.opcode := by
  revert op
  cases m <;> decide

end Sys2Proof
end

