-- ==== Sys2Proof/Laws/State.lean ====
section
/-!
SUPPORT. What each update of the state does to each field: one lemma per field per update, so that no later proof unfolds
a record update.
-/
namespace Sys2Proof.Machine

variable (s : State)

@[simp] theorem State.writeByte_pc (a : Addr) (v : Byte) : (s.writeByte a v).pc = s.pc := rfl
@[simp] theorem State.writeByte_ac (a : Addr) (v : Byte) : (s.writeByte a v).ac = s.ac := rfl
@[simp] theorem State.writeByte_xr (a : Addr) (v : Byte) : (s.writeByte a v).xr = s.xr := rfl
@[simp] theorem State.writeByte_yr (a : Addr) (v : Byte) : (s.writeByte a v).yr = s.yr := rfl
@[simp] theorem State.writeByte_sp (a : Addr) (v : Byte) : (s.writeByte a v).sp = s.sp := rfl
@[simp] theorem State.writeByte_p (a : Addr) (v : Byte) : (s.writeByte a v).p = s.p := rfl
@[simp] theorem State.writeByte_cyc (a : Addr) (v : Byte) : (s.writeByte a v).cyc = s.cyc := rfl
@[simp] theorem State.writeByte_ir (a : Addr) (v : Byte) : (s.writeByte a v).ir = s.ir := rfl
@[simp] theorem State.writeByte_halt (a : Addr) (v : Byte) : (s.writeByte a v).halt = s.halt := rfl
@[simp] theorem State.writeByte_mem (a : Addr) (v : Byte) : (s.writeByte a v).mem = s.mem.write a v := rfl
@[simp] theorem State.writeByte_storeMode (a : Addr) (v : Byte) : (s.writeByte a v).storeMode = s.storeMode := rfl

@[simp] theorem State.advance_pc (n : Nat) : (s.advance n).pc = s.pc + BitVec.ofNat 16 n := rfl
@[simp] theorem State.advance_ac (n : Nat) : (s.advance n).ac = s.ac := rfl
@[simp] theorem State.advance_xr (n : Nat) : (s.advance n).xr = s.xr := rfl
@[simp] theorem State.advance_yr (n : Nat) : (s.advance n).yr = s.yr := rfl
@[simp] theorem State.advance_sp (n : Nat) : (s.advance n).sp = s.sp := rfl
@[simp] theorem State.advance_p (n : Nat) : (s.advance n).p = s.p := rfl
@[simp] theorem State.advance_cyc (n : Nat) : (s.advance n).cyc = s.cyc + n := rfl
@[simp] theorem State.advance_ir (n : Nat) : (s.advance n).ir = s.ir := rfl
@[simp] theorem State.advance_halt (n : Nat) : (s.advance n).halt = s.halt := rfl
@[simp] theorem State.advance_mem (n : Nat) : (s.advance n).mem = s.mem := rfl
@[simp] theorem State.advance_storeMode (n : Nat) : (s.advance n).storeMode = s.storeMode := rfl

@[simp] theorem State.setAc_pc (v : Byte) : (s.setAc v).pc = s.pc := rfl
@[simp] theorem State.setAc_ac (v : Byte) : (s.setAc v).ac = v := rfl
@[simp] theorem State.setAc_xr (v : Byte) : (s.setAc v).xr = s.xr := rfl
@[simp] theorem State.setAc_yr (v : Byte) : (s.setAc v).yr = s.yr := rfl
@[simp] theorem State.setAc_sp (v : Byte) : (s.setAc v).sp = s.sp := rfl
@[simp] theorem State.setAc_p (v : Byte) : (s.setAc v).p = s.p := rfl
@[simp] theorem State.setAc_cyc (v : Byte) : (s.setAc v).cyc = s.cyc := rfl
@[simp] theorem State.setAc_ir (v : Byte) : (s.setAc v).ir = s.ir := rfl
@[simp] theorem State.setAc_halt (v : Byte) : (s.setAc v).halt = s.halt := rfl
@[simp] theorem State.setAc_mem (v : Byte) : (s.setAc v).mem = s.mem := rfl
@[simp] theorem State.setAc_storeMode (v : Byte) : (s.setAc v).storeMode = s.storeMode := rfl

@[simp] theorem State.setXr_pc (v : Byte) : (s.setXr v).pc = s.pc := rfl
@[simp] theorem State.setXr_ac (v : Byte) : (s.setXr v).ac = s.ac := rfl
@[simp] theorem State.setXr_xr (v : Byte) : (s.setXr v).xr = v := rfl
@[simp] theorem State.setXr_yr (v : Byte) : (s.setXr v).yr = s.yr := rfl
@[simp] theorem State.setXr_sp (v : Byte) : (s.setXr v).sp = s.sp := rfl
@[simp] theorem State.setXr_p (v : Byte) : (s.setXr v).p = s.p := rfl
@[simp] theorem State.setXr_cyc (v : Byte) : (s.setXr v).cyc = s.cyc := rfl
@[simp] theorem State.setXr_ir (v : Byte) : (s.setXr v).ir = s.ir := rfl
@[simp] theorem State.setXr_halt (v : Byte) : (s.setXr v).halt = s.halt := rfl
@[simp] theorem State.setXr_mem (v : Byte) : (s.setXr v).mem = s.mem := rfl
@[simp] theorem State.setXr_storeMode (v : Byte) : (s.setXr v).storeMode = s.storeMode := rfl

@[simp] theorem State.setYr_pc (v : Byte) : (s.setYr v).pc = s.pc := rfl
@[simp] theorem State.setYr_ac (v : Byte) : (s.setYr v).ac = s.ac := rfl
@[simp] theorem State.setYr_xr (v : Byte) : (s.setYr v).xr = s.xr := rfl
@[simp] theorem State.setYr_yr (v : Byte) : (s.setYr v).yr = v := rfl
@[simp] theorem State.setYr_sp (v : Byte) : (s.setYr v).sp = s.sp := rfl
@[simp] theorem State.setYr_p (v : Byte) : (s.setYr v).p = s.p := rfl
@[simp] theorem State.setYr_cyc (v : Byte) : (s.setYr v).cyc = s.cyc := rfl
@[simp] theorem State.setYr_ir (v : Byte) : (s.setYr v).ir = s.ir := rfl
@[simp] theorem State.setYr_halt (v : Byte) : (s.setYr v).halt = s.halt := rfl
@[simp] theorem State.setYr_mem (v : Byte) : (s.setYr v).mem = s.mem := rfl
@[simp] theorem State.setYr_storeMode (v : Byte) : (s.setYr v).storeMode = s.storeMode := rfl

@[simp] theorem State.latchIr_pc (m : Mnemonic) : (s.latchIr m).pc = s.pc := rfl
@[simp] theorem State.latchIr_ac (m : Mnemonic) : (s.latchIr m).ac = s.ac := rfl
@[simp] theorem State.latchIr_xr (m : Mnemonic) : (s.latchIr m).xr = s.xr := rfl
@[simp] theorem State.latchIr_yr (m : Mnemonic) : (s.latchIr m).yr = s.yr := rfl
@[simp] theorem State.latchIr_sp (m : Mnemonic) : (s.latchIr m).sp = s.sp := rfl
@[simp] theorem State.latchIr_p (m : Mnemonic) : (s.latchIr m).p = s.p := rfl
@[simp] theorem State.latchIr_cyc (m : Mnemonic) : (s.latchIr m).cyc = s.cyc := rfl
@[simp] theorem State.latchIr_ir (m : Mnemonic) : (s.latchIr m).ir = some (decodedOf m) := rfl
@[simp] theorem State.latchIr_halt (m : Mnemonic) : (s.latchIr m).halt = s.halt := rfl
@[simp] theorem State.latchIr_mem (m : Mnemonic) : (s.latchIr m).mem = s.mem := rfl
@[simp] theorem State.latchIr_storeMode (m : Mnemonic) : (s.latchIr m).storeMode = s.storeMode := rfl

@[simp] theorem State.clearIr_pc : (s.clearIr).pc = s.pc := rfl
@[simp] theorem State.clearIr_ac : (s.clearIr).ac = s.ac := rfl
@[simp] theorem State.clearIr_xr : (s.clearIr).xr = s.xr := rfl
@[simp] theorem State.clearIr_yr : (s.clearIr).yr = s.yr := rfl
@[simp] theorem State.clearIr_sp : (s.clearIr).sp = s.sp := rfl
@[simp] theorem State.clearIr_p : (s.clearIr).p = s.p := rfl
@[simp] theorem State.clearIr_cyc : (s.clearIr).cyc = s.cyc := rfl
@[simp] theorem State.clearIr_ir : (s.clearIr).ir = none := rfl
@[simp] theorem State.clearIr_halt : (s.clearIr).halt = s.halt := rfl
@[simp] theorem State.clearIr_mem : (s.clearIr).mem = s.mem := rfl
@[simp] theorem State.clearIr_storeMode : (s.clearIr).storeMode = s.storeMode := rfl

@[simp] theorem State.setNZ_pc (v : Byte) : (s.setNZ v).pc = s.pc := rfl
@[simp] theorem State.setNZ_ac (v : Byte) : (s.setNZ v).ac = s.ac := rfl
@[simp] theorem State.setNZ_xr (v : Byte) : (s.setNZ v).xr = s.xr := rfl
@[simp] theorem State.setNZ_yr (v : Byte) : (s.setNZ v).yr = s.yr := rfl
@[simp] theorem State.setNZ_sp (v : Byte) : (s.setNZ v).sp = s.sp := rfl
@[simp] theorem State.setNZ_p (v : Byte) : (s.setNZ v).p = Sys2Proof.Machine.setNZ v s.p := rfl
@[simp] theorem State.setNZ_cyc (v : Byte) : (s.setNZ v).cyc = s.cyc := rfl
@[simp] theorem State.setNZ_ir (v : Byte) : (s.setNZ v).ir = s.ir := rfl
@[simp] theorem State.setNZ_halt (v : Byte) : (s.setNZ v).halt = s.halt := rfl
@[simp] theorem State.setNZ_mem (v : Byte) : (s.setNZ v).mem = s.mem := rfl
@[simp] theorem State.setNZ_storeMode (v : Byte) : (s.setNZ v).storeMode = s.storeMode := rfl

@[simp] theorem State.cpuReset_pc : (s.cpuReset).pc = s.readWord resetVector := rfl
@[simp] theorem State.cpuReset_ac : (s.cpuReset).ac = s.ac := rfl
@[simp] theorem State.cpuReset_xr : (s.cpuReset).xr = s.xr := rfl
@[simp] theorem State.cpuReset_yr : (s.cpuReset).yr = s.yr := rfl
@[simp] theorem State.cpuReset_sp : (s.cpuReset).sp = s.sp := rfl
@[simp] theorem State.cpuReset_p : (s.cpuReset).p = 0x00 := rfl
@[simp] theorem State.cpuReset_cyc : (s.cpuReset).cyc = s.cyc := rfl
@[simp] theorem State.cpuReset_ir : (s.cpuReset).ir = s.ir := rfl
@[simp] theorem State.cpuReset_halt : (s.cpuReset).halt = s.halt := rfl
@[simp] theorem State.cpuReset_mem : (s.cpuReset).mem = s.mem := rfl
@[simp] theorem State.cpuReset_storeMode : (s.cpuReset).storeMode = s.storeMode := rfl

end Sys2Proof.Machine
end

