-- ==== Sys2Proof/Laws/Memory.lean ====
section
/-!
SUPPORT. Memory: a read after a write, and the canonical form. The read laws hold for every list of cells; only
uniqueness of the form needs Memory.wf.
-/
namespace Sys2Proof.Machine

/-! ### Lists of cells -/

theorem readCells_dropCell_same (k : Nat) (l : List Host.Cell) :
    readCells k (dropCell k l) = Memory.unlisted := by
  induction l with
  | nil => rfl
  | cons c rest ih =>
    by_cases h : c.1 = k
    · simpa [dropCell, h] using ih
    · simpa [dropCell, readCells, h] using ih

theorem readCells_dropCell_other {j k : Nat} (h : j ≠ k) (l : List Host.Cell) :
    readCells j (dropCell k l) = readCells j l := by
  induction l with
  | nil => rfl
  | cons c rest ih =>
    by_cases hk : c.1 = k
    · simpa [dropCell, readCells, hk, Ne.symm h] using ih
    · have hd : dropCell k (c :: rest) = c :: dropCell k rest := by simp [dropCell, hk]
      simp only [hd, readCells, ih]

theorem readCells_insertCell_same (c : Host.Cell) (l : List Host.Cell) (h : ∀ d ∈ l, d.1 ≠ c.1) :
    readCells c.1 (insertCell c l) = c.2 := by
  induction l with
  | nil => simp [insertCell, readCells]
  | cons d rest ih =>
    have hd := h d (by simp)
    have hr := ih (fun e he => h e (by simp [he]))
    by_cases hlt : c.1 < d.1 <;> simp [insertCell, readCells, hlt, hd, hr]

theorem readCells_insertCell_other {j : Nat} (c : Host.Cell) (h : j ≠ c.1) (l : List Host.Cell) :
    readCells j (insertCell c l) = readCells j l := by
  induction l with
  | nil => simp [insertCell, readCells, Ne.symm h]
  | cons d rest ih =>
    by_cases hlt : c.1 < d.1
    · simp [insertCell, readCells, hlt, Ne.symm h]
    · simp only [insertCell, hlt, if_false, readCells, ih]

theorem mem_dropCell {k : Nat} {l : List Host.Cell} {c : Host.Cell} : c ∈ dropCell k l ↔ c ∈ l ∧ c.1 ≠ k := by
  simp [dropCell]

theorem mem_insertCell {c d : Host.Cell} {l : List Host.Cell} : d ∈ insertCell c l ↔ d = c ∨ d ∈ l := by
  induction l with
  | nil => simp [insertCell]
  | cons e rest ih =>
    by_cases hlt : c.1 < e.1
    · simp [insertCell, hlt]
    · simp only [insertCell, hlt, if_false, List.mem_cons, ih]
      tauto

theorem pairwise_insertCell (c : Host.Cell) (l : List Host.Cell) (hl : l.Pairwise (fun x y => x.1 < y.1))
    (hc : ∀ d ∈ l, d.1 ≠ c.1) : (insertCell c l).Pairwise (fun x y => x.1 < y.1) := by
  induction l with
  | nil => simp [insertCell]
  | cons d rest ih =>
    have hd := hc d (by simp)
    have htail := (List.pairwise_cons.1 hl).2
    have hhead := (List.pairwise_cons.1 hl).1
    by_cases hlt : c.1 < d.1
    · simp only [insertCell, hlt, if_true]
      refine List.pairwise_cons.2 ⟨fun x hx => ?_, hl⟩
      rcases List.mem_cons.1 hx with rfl | hx
      · exact hlt
      · exact hlt.trans (hhead x hx)
    · simp only [insertCell, hlt, if_false]
      refine List.pairwise_cons.2 ⟨fun x hx => ?_, ih htail (fun e he => hc e (by simp [he]))⟩
      rcases mem_insertCell.1 hx with rfl | hx
      · omega
      · exact hhead x hx

theorem dropCell_ne (k : Nat) (l : List Host.Cell) : ∀ d ∈ dropCell k l, d.1 ≠ k := fun _ h => (mem_dropCell.1 h).2

/-! ### Memory -/

theorem Memory.read_write_same (m : Memory) (a : Addr) (v : Byte) : (m.write a v).read a = v := by
  by_cases h : v = Memory.unlisted
  · simp only [Memory.write, h, if_true, Memory.read]
    exact readCells_dropCell_same _ _
  · simp only [Memory.write, h, if_false, Memory.read]
    exact readCells_insertCell_same (a.toNat, v) _ (dropCell_ne _ _)

theorem Memory.read_write_other (m : Memory) {a b : Addr} (v : Byte) (h : b ≠ a) :
    (m.write a v).read b = m.read b := by
  have hn : b.toNat ≠ a.toNat := fun e => h (BitVec.eq_of_toNat_eq e)
  by_cases hv : v = Memory.unlisted
  · simp only [Memory.write, hv, if_true, Memory.read]
    exact readCells_dropCell_other hn _
  · simp only [Memory.write, hv, if_false, Memory.read]
    rw [readCells_insertCell_other (a.toNat, v) hn, readCells_dropCell_other hn]

/-- Everything a write does to reads. -/
theorem Memory.read_write (m : Memory) (a b : Addr) (v : Byte) :
    (m.write a v).read b = if b = a then v else m.read b := by
  by_cases h : b = a
  · subst h; simp [Memory.read_write_same]
  · simp [h, Memory.read_write_other]

/-- Every write keeps the canonical form. -/
theorem Memory.wf_write {m : Memory} (h : m.wf) (a : Addr) (v : Byte) : (m.write a v).wf := by
  have hdrop : (dropCell a.toNat m.cells).Pairwise (fun c d => c.1 < d.1) := h.1.filter _
  have hall : ∀ c ∈ dropCell a.toNat m.cells, c.1 < 65536 ∧ c.2 ≠ Memory.unlisted :=
    fun c hc => h.2 c (mem_dropCell.1 hc).1
  by_cases hv : v = Memory.unlisted
  · simp only [Memory.write, hv, if_true]
    exact ⟨hdrop, hall⟩
  · simp only [Memory.write, hv, if_false]
    refine ⟨pairwise_insertCell _ _ hdrop (dropCell_ne _ _), fun c hc => ?_⟩
    rcases mem_insertCell.1 hc with rfl | hc
    · exact ⟨a.isLt, hv⟩
    · exact hall c hc

theorem Memory.wf_reset : State.reset.mem.wf := by decide

/-! ### Reads of a state -/

theorem State.readByte_writeByte (s : State) (a b : Addr) (v : Byte) :
    (s.writeByte a v).readByte b = if b = a then v else s.readByte b := Memory.read_write s.mem a b v

@[simp] theorem State.readByte_advance (s : State) (n : Nat) (a : Addr) : (s.advance n).readByte a = s.readByte a := rfl
@[simp] theorem State.readByte_setAc (s : State) (v : Byte) (a : Addr) : (s.setAc v).readByte a = s.readByte a := rfl
@[simp] theorem State.readByte_setXr (s : State) (v : Byte) (a : Addr) : (s.setXr v).readByte a = s.readByte a := rfl
@[simp] theorem State.readByte_setYr (s : State) (v : Byte) (a : Addr) : (s.setYr v).readByte a = s.readByte a := rfl
@[simp] theorem State.readByte_latchIr (s : State) (m : Mnemonic) (a : Addr) :
    (s.latchIr m).readByte a = s.readByte a := rfl
@[simp] theorem State.readByte_clearIr (s : State) (a : Addr) : s.clearIr.readByte a = s.readByte a := rfl
@[simp] theorem State.readByte_setNZ (s : State) (v : Byte) (a : Addr) : (s.setNZ v).readByte a = s.readByte a := rfl
@[simp] theorem State.readByte_cpuReset (s : State) (a : Addr) : s.cpuReset.readByte a = s.readByte a := rfl

end Sys2Proof.Machine
end

