-- ==== Sys2Proof/Laws/Ops.lean ====
section
/-!
SUPPORT. One lemma for each shared operation of a step that says everything it does.
-/
namespace Sys2Proof.Machine

variable (s : State)

/-- What every recognised instruction does before its behaviour (40_step R91, R93). -/
theorem State.beginInstr_eq (m : Mnemonic) :
    s.beginInstr m = { s with pc := s.pc + 1, cyc := s.cyc + 1, ir := some (decodedOf m) } := rfl

/-- What an unrecognised opcode does (40_step R92). -/
theorem State.skipUnrecognised_eq :
    s.skipUnrecognised = { s with pc := s.pc + 1, cyc := s.cyc + 1, ir := none } := rfl

/-- The opcode fetch and an immediate operand (30_encoding R72). -/
theorem State.consumeImmediate_beginInstr (m : Mnemonic) :
    (s.beginInstr m).consumeImmediate = { s with pc := s.pc + 2, cyc := s.cyc + 2, ir := some (decodedOf m) } := by
  simp [State.beginInstr, State.consumeImmediate, State.advance, State.latchIr, BitVec.add_assoc, Nat.add_assoc]

/-- The opcode fetch and an absolute address (30_encoding R73). -/
theorem State.consumeAbsolute_beginInstr (m : Mnemonic) :
    (s.beginInstr m).consumeAbsolute = { s with pc := s.pc + 3, cyc := s.cyc + 3, ir := some (decodedOf m) } := by
  simp [State.beginInstr, State.consumeAbsolute, State.advance, State.latchIr, BitVec.add_assoc, Nat.add_assoc]

/-- A register store writes one byte and nothing else (43_store_absolute R133). -/
theorem State.storeRegister_eq (a : Addr) (r : Byte) :
    s.storeRegister a r = { s with mem := s.mem.write a (storeValue s.storeMode (s.mem.read a) r) } := rfl

/-- A memory change writes one byte, N and Z, and nothing else (42_inc_dec R120, R121). -/
theorem State.modifyByte_eq (a : Addr) (f : Byte → Byte) :
    s.modifyByte a f =
      { s with mem := s.mem.write a (f (s.mem.read a)), p := Sys2Proof.Machine.setNZ (f (s.mem.read a)) s.p } := rfl

end Sys2Proof.Machine
end

