-- ==== Sys2Proof/Laws/PerInstr.lean ====
section
/-!
SUPPORT. Statements about every instruction as syntax, one lemma per constructor.
-/
namespace Sys2Proof.Laws.EncodedForm

/-- The encoding has the length the opcode fixes, and begins with a byte that the Instruction Table maps back to the
instruction's operation (30_encoding R74, R78). -/
def Statement (i : Instr) : Prop :=
  (encode i).length = i.length ∧ (encode i).head?.bind lookup = some i.mnemonic

theorem sty (a : Addr) : Statement (.sty a) := ⟨rfl, rfl⟩
theorem sta (a : Addr) : Statement (.sta a) := ⟨rfl, rfl⟩
theorem stx (a : Addr) : Statement (.stx a) := ⟨rfl, rfl⟩
theorem ldy (imm : Byte) : Statement (.ldy imm) := ⟨rfl, rfl⟩
theorem ldx (imm : Byte) : Statement (.ldx imm) := ⟨rfl, rfl⟩
theorem lda (imm : Byte) : Statement (.lda imm) := ⟨rfl, rfl⟩
theorem dec (a : Addr) : Statement (.dec a) := ⟨rfl, rfl⟩
theorem nop : Statement .nop := ⟨rfl, rfl⟩
theorem inc (a : Addr) : Statement (.inc a) := ⟨rfl, rfl⟩

end Sys2Proof.Laws.EncodedForm
end

