-- ==== Sys2Proof/Laws/Step.lean ====
section
/-!
SUPPORT. What a step can do, said once: the opcode byte at PC selects the operation, and the step runs it with its
operand decoded, or skips the byte.
-/
namespace Sys2Proof.Machine

/-- What decoding makes of an operation and the two bytes after its opcode. -/
def operandInstr (m : Mnemonic) (b1 b2 : Byte) : Instr :=
  match m with
  | .sty => .sty (word b2 b1)
  | .sta => .sta (word b2 b1)
  | .stx => .stx (word b2 b1)
  | .ldy => .ldy b1
  | .ldx => .ldx b1
  | .lda => .lda b1
  | .dec => .dec (word b2 b1)
  | .nop => .nop
  | .inc => .inc (word b2 b1)

theorem step_of_lookup_none {s : State} (h : lookup (s.readByte s.pc) = none) : step s = .next s.skipUnrecognised := by
  simp [step, State.fetchWindow, decode, h]

theorem step_of_lookup_some {s : State} {m : Mnemonic} (h : lookup (s.readByte s.pc) = some m) :
    step s = exec (operandInstr m (s.readByte (s.pc + 1)) (s.readByte (s.pc + 2))) s := by
  cases m <;> simp [step, State.fetchWindow, decode, h, decodeOperand, takeAbsolute, takeImmediate, operandInstr]

/-- The only decode error a step meets is an unrecognised opcode: its window holds three bytes. -/
theorem decode_fetchWindow_error {s : State} {e : DecodeError} (h : decode s.fetchWindow = .error e) :
    e = .unrecognised (s.readByte s.pc) := by
  unfold State.fetchWindow decode at h
  split at h
  · contradiction
  · rename_i op bytes heq
    obtain ⟨rfl, rfl⟩ := List.cons.inj heq
    split at h
    · exact (Except.error.inj h).symm
    · rename_i m _
      cases m <;> simp [decodeOperand, takeAbsolute, takeImmediate] at h

/-- Everything a step can do. -/
theorem step_cases (s : State) :
    (lookup (s.readByte s.pc) = none ∧ step s = .next s.skipUnrecognised) ∨
    (∃ m, lookup (s.readByte s.pc) = some m ∧
      step s = exec (operandInstr m (s.readByte (s.pc + 1)) (s.readByte (s.pc + 2))) s) := by
  cases h : lookup (s.readByte s.pc) with
  | none => exact .inl ⟨rfl, step_of_lookup_none h⟩
  | some m => exact .inr ⟨m, rfl, step_of_lookup_some h⟩

end Sys2Proof.Machine
end

