-- ==== Sys2Proof/Tests/Slice0.lean ====
section
/-!
SUPPORT. Tests. Expected results come from spec/95_test_vectors (its S, V and P items), from the examples of the
instruction rules, or from the encodings of 30_encoding; each test names its source. Then a witness for every statement
that has hypotheses.
-/
namespace Sys2Proof.Tests

open Sys2Proof.Machine

/-- The blank machine with some bytes poked, PC at 0x0000. -/
def blankWith (cells : List Host.Cell) : State := { State.reset with mem := ⟨cells⟩ }

/-- What a property of the next state is. -/
def afterStep {α : Type} (s : State) (f : State → α) : Option α :=
  match step s with
  | .next t => some (f t)
  | .fault _ => none
  | .refused _ => none

/-! ### Well-formedness -/

/-- U2: a table with a repeated opcode is refused. -/
theorem test_table_repeated_opcode_refused : tableWellFormed [⟨0xA9, .lda⟩, ⟨0xA2, .ldx⟩, ⟨0xA9, .nop⟩] = false := by decide

theorem test_table_wellFormed : tableWellFormed instructionTable = true := by decide

/-- R76, R77: every operand value is legal, so no instruction term is ill-formed. -/
theorem test_every_instruction_wellFormed (i : Instr) : i.wellFormed = true := by cases i <;> rfl

/-- The canonical form refuses a listed zero, a repeated address, falling addresses and an address past 0xFFFF. -/
theorem test_memory_form_refuses :
    ¬Memory.wf ⟨[(3, 0x00)]⟩ ∧ ¬Memory.wf ⟨[(3, 0x01), (3, 0x02)]⟩ ∧ ¬Memory.wf ⟨[(4, 0x01), (3, 0x02)]⟩ ∧
      ¬Memory.wf ⟨[(65536, 0x01)]⟩ := by decide

/-! ### Decoding: words written out bit by bit from 30_encoding R71 to R73 and R78 -/

theorem test_decode_sty : decode [0b10001100, 0b00000010, 0b00000011] = .ok (.sty 0x0302, []) := by decide
theorem test_decode_sta : decode [0b10001101, 0b00000000, 0b00000011] = .ok (.sta 0x0300, []) := by decide
theorem test_decode_stx : decode [0b10001110, 0b00000001, 0b00000011] = .ok (.stx 0x0301, []) := by decide
theorem test_decode_ldy : decode [0b10100000, 0b01111111] = .ok (.ldy 0x7F, []) := by decide
theorem test_decode_ldx : decode [0b10100010, 0b10000000] = .ok (.ldx 0x80, []) := by decide
theorem test_decode_lda : decode [0b10101001, 0b11111111] = .ok (.lda 0xFF, []) := by decide
/-- R77's worked example: 0xCE, 0xAB, 0xCD is DEC 0xCDAB. -/
theorem test_decode_dec : decode [0b11001110, 0b10101011, 0b11001101] = .ok (.dec 0xCDAB, []) := by decide
theorem test_decode_nop : decode [0b11101010, 0b11111111] = .ok (.nop, [0b11111111]) := by decide
theorem test_decode_inc : decode [0b11101110, 0b00110100, 0b00010010] = .ok (.inc 0x1234, []) := by decide
/-- R79: 0x00 is an ordinary unrecognised byte. -/
theorem test_decode_zero_rejected : decode [0x00] = .error (.unrecognised 0x00) := by decide
theorem test_decode_truncated_rejected : decode [0xEE, 0x34] = .error (.truncated .inc) := by decide
/-- The opcode table's numbering: the opcode byte is bits 7:0, the operand bytes follow. -/
theorem test_decodeTableWord : decodeTableWord 24 0x1234EE = some (.inc 0x1234) ∧ decodeTableWord 8 0xCE = some (.dec 0x0000) := by
  decide

/-! ### One step: 95_test_vectors -/

/-- S7: LDA #0xFF. -/
theorem test_lda_ff : afterStep (blankWith [(0, 0xA9), (1, 0xFF)]) (fun t => (t.ac, t.p, t.pc, t.cyc)) = some (0xFF, 0x80, 0x0002, 2) := by
  decide
/-- V1: flags are overwritten: from P=80, LDA #0x00 gives P=02. -/
theorem test_lda_zero_from_n :
    afterStep { blankWith [(0, 0xA9)] with p := 0x80 } (fun t => (t.ac, t.p)) = some (0x00, 0x02) := by decide
/-- V1: from AC=11 XR=22 YR=33, LDX #0x44 writes XR only. -/
theorem test_ldx_only_xr :
    afterStep { blankWith [(0, 0xA2), (1, 0x44)] with ac := 0x11, xr := 0x22, yr := 0x33 } (fun t => (t.ac, t.xr, t.yr))
      = some (0x11, 0x44, 0x33) := by decide
/-- P5b: LDX whose operand wraps to 0x0000. -/
theorem test_ldx_operand_wraps :
    afterStep { blankWith [(0, 0x99), (0xFFFF, 0xA2)] with pc := 0xFFFF } (fun t => (t.xr, t.p, t.pc, t.cyc))
      = some (0x99, 0x80, 0x0001, 2) := by decide
/-- R112's example. -/
theorem test_ldy_7f :
    afterStep { blankWith [(0x0204, 0xA0), (0x0205, 0x7F)] with pc := 0x0204, cyc := 4, p := 0x80 }
      (fun t => (t.yr, t.p, t.pc, t.cyc)) = some (0x7F, 0x00, 0x0206, 6) := by decide
/-- V2: INC of 0xFF gives 0x00, P=02 exactly (no carry). -/
theorem test_inc_wraps :
    afterStep (blankWith [(0, 0xEE), (1, 0x34), (2, 0x12), (0x1234, 0xFF)]) (fun t => (t.readByte 0x1234, t.p, t.pc, t.cyc))
      = some (0x00, 0x02, 0x0003, 3) := by decide
/-- V2: INC of its own operand byte uses the address it fetched. -/
theorem test_inc_own_operand :
    afterStep (blankWith [(0, 0xEE), (1, 0x01)]) (fun t => (t.readByte 0x0000, t.readByte 0x0001, t.readByte 0x0002, t.p))
      = some (0xEE, 0x02, 0x00, 0x00) := by decide
/-- S8c: the bytes CE AB CD decrement 0xCDAB, not 0xABCD. -/
theorem test_dec_little_endian :
    afterStep (blankWith [(0, 0xCE), (1, 0xAB), (2, 0xCD), (0xABCD, 0x43)]) (fun t => (t.readByte 0xCDAB, t.readByte 0xABCD, t.p))
      = some (0xFF, 0x43, 0x80) := by decide
/-- P5c: the operand's bytes straddle 0xFFFF. -/
theorem test_dec_operand_straddles :
    afterStep { blankWith [(0, 0x12), (0x1234, 0x01), (0xFFFE, 0xCE), (0xFFFF, 0x34)] with pc := 0xFFFE }
      (fun t => (t.readByte 0x1234, t.pc, t.p, t.cyc)) = some (0x00, 0x0001, 0x02, 3) := by decide
/-- V3: STA, AC=05 over 09, ASSIGN. -/
theorem test_sta_assign :
    afterStep { blankWith [(0, 0x8D), (2, 0x03), (0x0300, 0x09)] with ac := 0x05, storeMode := .assign }
      (fun t => (t.readByte 0x0300, t.p, t.ac)) = some (0x05, 0x00, 0x05) := by decide
/-- V3: STA, AC=80 over 80, SUBTRACT: the byte is 00 and P stays 80. -/
theorem test_sta_subtract :
    afterStep { blankWith [(0, 0x8D), (2, 0x03), (0x0300, 0x80)] with ac := 0x80, p := 0x80, storeMode := .subtract }
      (fun t => (t.readByte 0x0300, t.p)) = some (0x00, 0x80) := by decide
/-- V3: STX, XR=01 over 00. -/
theorem test_stx_assign :
    afterStep { blankWith [(0, 0x8E), (2, 0x03)] with xr := 0x01, storeMode := .assign } (fun t => (t.readByte 0x0300, t.p))
      = some (0x01, 0x00) := by decide
theorem test_stx_subtract :
    afterStep { blankWith [(0, 0x8E), (2, 0x03)] with xr := 0x01, storeMode := .subtract } (fun t => (t.readByte 0x0300, t.p))
      = some (0xFF, 0x00) := by decide
/-- V3: STY, YR=20 over 10. -/
theorem test_sty_assign :
    afterStep { blankWith [(0, 0x8C), (2, 0x03), (0x0300, 0x10)] with yr := 0x20, storeMode := .assign }
      (fun t => (t.readByte 0x0300, t.p)) = some (0x20, 0x00) := by decide
theorem test_sty_subtract :
    afterStep { blankWith [(0, 0x8C), (2, 0x03), (0x0300, 0x10)] with yr := 0x20, storeMode := .subtract }
      (fun t => (t.readByte 0x0300, t.p)) = some (0xF0, 0x00) := by decide
/-- V4: NOP at the top of memory. -/
theorem test_nop_wraps :
    afterStep { blankWith [(0xFFFF, 0xEA)] with pc := 0xFFFF, p := 0x02 }
      (fun t => (t.pc, t.p, t.cyc, t.ir.map DecodedInstr.opcode)) = some (0x0000, 0x02, 1, some 0xEA) := by decide
/-- V5: an unrecognised opcode after an LDA clears IR and keeps the rest. -/
theorem test_unrecognised :
    afterStep { blankWith [(0x0010, 0xAD)] with pc := 0x0010, ac := 0x12, xr := 0x34, yr := 0x56, p := 0x80, cyc := 5,
                                                ir := some (decodedOf .lda) }
      (fun t => ((t.pc, t.ac, t.xr), (t.yr, t.p, t.cyc), t.ir.isNone)) = some ((0x0011, 0x12, 0x34), (0x56, 0x80, 6), true) := by decide
/-- V5: its report. -/
theorem test_unrecognised_report : (blankWith [(0, 0xFF)]).report = .unknownOpcode 0xFF := by decide
/-- V6: setters and getters in isolation. -/
theorem test_flag_setters :
    setFlag .c false 0xDF = 0xDE ∧ setFlag .z false 0xDF = 0xDD ∧ setFlag .n true 0x20 = 0xA0 ∧
      setFlag .z false (setFlag .z true 0x5D) = 0x5D ∧ getFlag .n 0x80 = true ∧ getFlag .z 0x80 = false := by decide
/-- V7: reset() writes P and PC only. -/
theorem test_reset_command :
    (fun t : State => (t.pc, t.ac, t.p, t.cyc))
      (State.cpuReset { blankWith [(0xFFFD, 0x02)] with pc := 0x0207, ac := 0x80, p := 0x80, cyc := 9 })
      = (0x0200, 0x80, 0x00, 9) := by decide
/-- V8: FetchWord at 0xFFFF. -/
theorem test_fetchWord_at_top :
    (fun r : Addr × Bus => (r.1, r.2.state.pc, r.2.state.cyc))
      (fetchWord 0xFFFF ⟨{ blankWith [(0, 0x12), (0xFFFF, 0x34)] with pc := 0xFFFF }, []⟩) = (0x1234, 0x0001, 2) := by decide
/-- R51: a SUBTRACT store reads and then writes its byte. -/
theorem test_accesses_subtract_store :
    (busStep ⟨{ blankWith [(0, 0x8D), (2, 0x03), (0x0300, 0x09)] with ac := 0x05, storeMode := .subtract }, []⟩).2.log
      = [.read 0x0000, .read 0x0001, .read 0x0002, .read 0x0300, .write 0x0300 0x04] := by decide
/-- The word laid at PC is the instruction the next step runs. -/
theorem test_withFetchWord : afterStep (State.reset.withFetchWord 16 0x44A9) (fun t => (t.ac, t.pc)) = some (0x44, 0x0002) := by
  decide

/-! ### Witnesses: states and operands that meet the hypotheses of the statements -/

/-- A state with an instruction's three bytes at 0xFFFE, so that its high operand byte is at 0x0000. -/
def atTop (op lo hi : Byte) : State := { blankWith [(0, hi), (0xFFFE, op), (0xFFFF, lo)] with pc := 0xFFFE }

theorem witness_LdaLoadsRegisterAndSetsNZ :
    (atTop 0xA9 0x80 0x01).readByte (atTop 0xA9 0x80 0x01).pc = 0xA9 ∧
      (atTop 0xA9 0x80 0x01).readByte ((atTop 0xA9 0x80 0x01).pc + 1) = 0x80 := by decide
theorem witness_LdxLoadsRegisterAndSetsNZ :
    (atTop 0xA2 0x80 0x01).readByte (atTop 0xA2 0x80 0x01).pc = 0xA2 ∧
      (atTop 0xA2 0x80 0x01).readByte ((atTop 0xA2 0x80 0x01).pc + 1) = 0x80 := by decide
theorem witness_LdyLoadsRegisterAndSetsNZ :
    (atTop 0xA0 0x80 0x01).readByte (atTop 0xA0 0x80 0x01).pc = 0xA0 ∧
      (atTop 0xA0 0x80 0x01).readByte ((atTop 0xA0 0x80 0x01).pc + 1) = 0x80 := by decide
/-- The hypotheses of the five absolute statements, one opcode each, at the wrap of the operand. -/
theorem witness_absolute_operands :
    ∀ op ∈ [(0xEE : Byte), 0xCE, 0x8D, 0x8E, 0x8C],
      (atTop op 0x34 0x12).readByte (atTop op 0x34 0x12).pc = op ∧
      (atTop op 0x34 0x12).readByte ((atTop op 0x34 0x12).pc + 2) ++ (atTop op 0x34 0x12).readByte ((atTop op 0x34 0x12).pc + 1)
        = (0x1234 : Addr) := by decide
theorem witness_NopOnlyAdvances : (blankWith [(0, 0xEA)]).readByte (blankWith [(0, 0xEA)]).pc = 0xEA := by decide
theorem witness_EncodeOfDecode : decode [0x8C, 0xFF, 0xFF, 0x00] = .ok (.sty 0xFFFF, [0x00]) := by decide
theorem witness_InstructionSetClosed :
    (0x00 : Byte) ∉ [(0xA9 : Byte), 0xA2, 0xA0, 0xEA, 0xCE, 0xEE, 0x8D, 0x8E, 0x8C] ∧
      State.reset.readByte State.reset.pc = 0x00 := by decide
/-- The ends of the ranges of R79: each is unrecognised, and each neighbour outside them is not. -/
theorem witness_UnrecognisedRanges :
    (∀ op ∈ [(0x00 : Byte), 0x8B, 0x8F, 0x9F, 0xA1, 0xA3, 0xA8, 0xAA, 0xCD, 0xCF, 0xE9, 0xEB, 0xED, 0xEF, 0xFF],
      lookup op = none ∧ (blankWith [(0, op)]).readByte (blankWith [(0, op)]).pc = op) ∧
    (∀ op ∈ [(0x8C : Byte), 0x8E, 0xA0, 0xA2, 0xA9, 0xCE, 0xEA, 0xEE], lookup op ≠ none) := by decide
theorem witness_TableRowsDetermined :
    tableWellFormed instructionTable = true ∧ (⟨0xEA, .nop⟩ : TableRow) ∈ instructionTable ∧
      (⟨0xEA, .nop⟩ : TableRow).opcode = (⟨0xEA, .nop⟩ : TableRow).opcode := by decide
theorem witness_StepRunsDecoded :
    decode (atTop 0xCE 0x34 0x12).fetchWindow = .ok (.dec 0x1234, []) ∧
      decode State.reset.fetchWindow = .error (.unrecognised 0x00) := by decide
theorem witness_StepIsFetchDecodeExecute :
    lookup (fetchByte State.reset.pc ⟨State.reset, []⟩).1 = none ∧
      lookup (fetchByte 0xFFFE ⟨atTop 0xCE 0x34 0x12, []⟩).1 = some .dec := by decide
theorem witness_UnrecognisedOpcodeSkipped : lookup (State.reset.readByte State.reset.pc) = none := by decide
theorem witness_RecognisedOpcodeLatched :
    lookup ((atTop 0x8C 0x34 0x12).readByte (atTop 0x8C 0x34 0x12).pc) = some .sty := by decide
theorem witness_ReportTellsIrAfter : State.reset.report = .unknownOpcode 0x00 := by decide
/-- Every clause of the access table: an unrecognised byte, each format, and a store in each mode. -/
theorem witness_AccessesOfEachOperation :
    lookup (State.reset.readByte State.reset.pc) = none ∧
    (lookup ((atTop 0xEA 0 0).readByte 0xFFFE) = some .nop ∧ Mnemonic.nop.format = .imp) ∧
    (lookup ((atTop 0xA9 0 0).readByte 0xFFFE) = some .lda ∧ Mnemonic.lda.format = .imm) ∧
    lookup ((atTop 0xEE 0 0).readByte 0xFFFE) = some .inc ∧
    (lookup ((atTop 0x8D 0 0).readByte 0xFFFE) = some .sta ∧ (atTop 0x8D 0 0).storeMode = .assign) ∧
    (lookup ((atTop 0x8D 0 0).readByte 0xFFFE) = some .sta ∧
      State.storeMode { atTop 0x8D 0 0 with storeMode := .subtract } = .subtract) := by decide
/-- Every length, the unrecognised one at a step. -/
theorem witness_LengthFixedByOpcode :
    decode [0xEA, 0x01] = .ok (.nop, [0x01]) ∧ decode [0xA0, 0x01] = .ok (.ldy 0x01, []) ∧
      decode [0x8C, 0x01, 0x02] = .ok (.sty 0x0201, []) ∧ lookup 0xFF = none := by decide
theorem witness_RecognisedRunEndsDecoded : State.RunsRecognised 1 (blankWith [(0, 0xEA)]) :=
  ⟨by decide, fun _ _ => trivial⟩
theorem witness_WriteThenRead : (0xFFFF : Addr) ≠ 0x0000 := by decide
theorem witness_ReadWordLittleEndian : (0x0000 : Addr).toNat = ((0xFFFF : Addr).toNat + 1) % 65536 := by decide
theorem witness_MemoryIsItsBytes :
    Memory.wf ⟨[(0, 0x01), (65535, 0xFF)]⟩ ∧
      ∀ a : Addr, Memory.read ⟨[(0, 0x01), (65535, 0xFF)]⟩ a = Memory.read ⟨[(0, 0x01), (65535, 0xFF)]⟩ a :=
  ⟨by decide, fun _ => rfl⟩
theorem witness_WritesIdempotent : (atTop 0xCE 0x34 0x12).mem.wf := by decide
/-- A step that stores, a step that does not, and one at an unrecognised opcode. -/
theorem witness_StepWritesOnlyItsAddress :
    (∃ t, step (atTop 0x8D 0x34 0x12) = .next t) ∧
    (decode (atTop 0x8D 0x34 0x12).fetchWindow = .ok (.sta 0x1234, []) ∧ Instr.storesTo (.sta 0x1234) = some 0x1234 ∧
      (0x1235 : Addr) ≠ 0x1234) ∧
    (decode (atTop 0xEA 0x34 0x12).fetchWindow = .ok (.nop, [0x34, 0x12]) ∧ Instr.storesTo .nop = none) ∧
    decode State.reset.fetchWindow = .error (.unrecognised 0x00) :=
  ⟨⟨_, rfl⟩, by decide, by decide, by decide⟩
theorem witness_StoreSeenByNextFetch :
    (State.reset.storeMode = .assign ∧ State.ac { State.reset with ac := 0xEA } = 0xEA) ∧ lookup State.reset.ac = none := by
  decide
theorem witness_FlagsAreIndependentBits : (7 : Nat) < 8 ∧ Flag.z ≠ Flag.n := by decide
theorem witness_SetNZWritesBoth : (0 : Nat) < 8 ∧ (7 : Nat) < 8 := by decide
theorem witness_StoreValueOfEachMode :
    storeValue .assign 0x00 0x80 = storeValue .subtract 0x00 0x80 ∧ storeValue .assign 0x09 0x05 ≠ storeValue .subtract 0x09 0x05 := by
  decide
theorem witness_OnlyNAndZAreWritten :
    (∀ i : Instr, ∃ t, exec i State.reset = .next t) ∧ lookup (State.reset.readByte State.reset.pc) = none :=
  ⟨fun i => by cases i <;> exact ⟨_, rfl⟩, by decide⟩
theorem witness_RegistersHaveOneWriterAndOneReader :
    ((∃ t, exec (.stx 0x1234) State.reset = .next t) ∧ (∀ a, Instr.stx 0x1234 ≠ .sta a) ∧ (∀ a, Instr.stx 0x1234 ≠ .sty a)) ∧
      ((∃ t, exec .nop State.reset = .next t) ∧ ∀ a, Instr.nop ≠ .stx a) ∧
      ((∃ t, hostDo .step State.reset = .next t) ∧ lookup (State.reset.readByte State.reset.pc) = none) :=
  ⟨⟨⟨_, rfl⟩, by simp, by simp⟩, ⟨⟨_, rfl⟩, by simp⟩, ⟨⟨_, (rfl : step State.reset = _)⟩, by decide⟩⟩
theorem witness_RunsAreSequential :
    ((∃ t, hostDo .step State.reset = .next t) ∧ HostCommand.step ≠ .reset) ∧
      ((∃ t, hostDo (.poke 0 1) State.reset = .next t) ∧ HostCommand.poke 0 1 ≠ .reset) :=
  ⟨⟨⟨_, (rfl : step State.reset = _)⟩, by decide⟩, ⟨⟨_, rfl⟩, by decide⟩⟩
theorem witness_HiddenStateInfluencesNothing : ∃ t, step (atTop 0xEE 0x34 0x12) = .next t := ⟨_, rfl⟩
theorem witness_InertStateKept : ∀ c : HostCommand, ∃ t, hostDo c State.reset = .next t := by
  intro c
  cases c with
  | poke a v => exact ⟨_, rfl⟩
  | reset => exact ⟨_, rfl⟩
  | step => exact ⟨_, (rfl : step State.reset = _)⟩
theorem witness_ResetCommandIdempotent : ∃ t, hostDo .reset (atTop 0xEE 0x34 0x12) = .next t := ⟨_, rfl⟩
theorem witness_HostSeesIntrospection : State.ir { State.reset with ir := some (decodedOf .nop) } = some (decodedOf .nop) := rfl
theorem witness_MemoryFormKept :
    (atTop 0xCE 0x34 0x12).mem.wf ∧ (∃ t, exec (.dec 0x1234) (atTop 0xCE 0x34 0x12) = .next t) ∧
      ∃ t, hostDo (.poke 0x0000 0x00) (atTop 0xCE 0x34 0x12) = .next t :=
  ⟨by decide, ⟨_, rfl⟩, ⟨_, rfl⟩⟩
theorem witness_StepKeepsInvariant : (atTop 0xA9 0x80 0x01).Inv ∧ ∃ t, step (atTop 0xA9 0x80 0x01) = .next t :=
  ⟨⟨.inl rfl, .inl rfl, ⟨rfl, rfl⟩, by decide⟩, ⟨_, rfl⟩⟩
theorem witness_EveryCommandKeepsInvariant :
    (atTop 0xEE 0x34 0x12).Inv ∧ (∃ t, hostDo (.poke 0xFFFF 0x00) (atTop 0xEE 0x34 0x12) = .next t) ∧
      (∃ t, hostDo .reset (atTop 0xEE 0x34 0x12) = .next t) ∧ ∃ t, hostDo .step (atTop 0xEE 0x34 0x12) = .next t :=
  ⟨⟨.inl rfl, .inl rfl, ⟨rfl, rfl⟩, by decide⟩, ⟨_, rfl⟩, ⟨_, rfl⟩, ⟨_, (rfl : step (atTop 0xEE 0x34 0x12) = _)⟩⟩
theorem witness_ReachableStatesMeetInvariant :
    Reachable (State.poke { State.construct with storeMode := .subtract } 0xFFFC 0x34) :=
  .command (.poke 0xFFFC 0x34) (.construct .subtract) rfl

end Sys2Proof.Tests
end

section
/-! The instruction set of 00_scope R2: which bytes `lookup` recognises, and the step at any other byte. -/
namespace Sys2Proof

/-- The table holds one row per operation, under that operation's opcode (30_encoding R78, R80). -/
theorem lookup_eq_some_iff {op : Byte} {m : Mnemonic} : lookup op = some m ↔ op = m.opcode := by
  constructor
  · exact opcode_of_lookup
  · rintro rfl
    exact lookup_opcode m

/-- A byte is unrecognised exactly when no operation has it as its opcode (30_encoding R79). -/
theorem lookup_eq_none_iff {op : Byte} : lookup op = none ↔ ∀ m : Mnemonic, op ≠ m.opcode := by
  simp only [Option.eq_none_iff_forall_ne_some, ne_eq, lookup_eq_some_iff]

/-- No operation has an opcode outside the list of 00_scope R2. -/
theorem Mnemonic.opcode_mem_nine (m : Mnemonic) :
    m.opcode ∈ [(0xA9 : Byte), 0xA2, 0xA0, 0xEA, 0xCE, 0xEE, 0x8D, 0x8E, 0x8C] := by
  cases m <;> decide

/-- The pairs of 00_scope R2 are the graph of `Mnemonic.opcode`. -/
theorem mem_nine_pairs_iff {op : Byte} {m : Mnemonic} :
    (op, m) ∈ [((0xA9 : Byte), Mnemonic.lda), (0xA2, .ldx), (0xA0, .ldy), (0xEA, .nop), (0xCE, .dec), (0xEE, .inc),
        (0x8D, .sta), (0x8E, .stx), (0x8C, .sty)] ↔ op = m.opcode := by
  cases m <;> simp [Mnemonic.opcode]

/-- Every byte other than the nine opcodes is unrecognised (00_scope R2, 30_encoding R79). -/
theorem lookup_eq_none_of_not_mem_nine {op : Byte}
    (h : op ∉ [(0xA9 : Byte), 0xA2, 0xA0, 0xEA, 0xCE, 0xEE, 0x8D, 0x8E, 0x8C]) : lookup op = none := by
  refine lookup_eq_none_iff.mpr fun m hop => h ?_
  rw [hop]
  exact m.opcode_mem_nine

namespace Machine

/-- Settles O13: `lookup` inverts `Mnemonic.opcode`, whose values are the nine bytes, and a byte it does not find is
skipped (40_step R92). -/
theorem instructionSetClosed : Obligations.InstructionSetClosed := by
  intro op
  constructor
  · intro m
    exact lookup_eq_some_iff.trans mem_nine_pairs_iff.symm
  · rintro hop s rfl
    rw [step_of_lookup_none (lookup_eq_none_of_not_mem_nine hop), State.skipUnrecognised_eq]

end Machine
end Sys2Proof
end

section
/-! The status register's flags as bits (10_state R14 to R17): every mask is one bit, and each flag's bit is its own. -/
namespace Sys2Proof.Machine

/-- The bit of P that a flag occupies (10_state R14). -/
def Flag.position : Flag → Nat
  | .n => 7
  | .v => 6
  | .b => 4
  | .d => 3
  | .i => 2
  | .z => 1
  | .c => 0

theorem Flag.mask_eq_twoPow (f : Flag) : f.mask = BitVec.twoPow 8 f.position := by cases f <;> rfl

theorem Flag.position_lt (f : Flag) : f.position < 8 := by cases f <;> decide

theorem Flag.position_injective : Function.Injective Flag.position := by
  intro f g
  cases f <;> cases g <;> decide

/-- A mask has the flag's own bit and no other. -/
@[simp] theorem Flag.getLsbD_mask (f : Flag) (k : Nat) : f.mask.getLsbD k = decide (f.position = k) := by
  simp [Flag.mask_eq_twoPow, BitVec.getLsbD_twoPow, f.position_lt]

/-- `SetFlag` at each bit of P: the flag's own bit is written, every other is kept (10_state R16). -/
theorem getLsbD_setFlag (f : Flag) (b : Bool) (p : Byte) {k : Nat} (hk : k < 8) :
    (setFlag f b p).getLsbD k = if k = f.position then b else p.getLsbD k := by
  have hones : (0xFF#8).getLsbD k = true := by
    rw [show 0xFF#8 = BitVec.allOnes 8 from rfl, BitVec.getLsbD_allOnes, decide_eq_true hk]
  by_cases hp : f.position = k
  · cases b <;> simp [setFlag, hones, hp]
  · cases b <;> simp [setFlag, hones, hp, Ne.symm hp]

/-- `GetFlag` is the flag's own bit (10_state R17). -/
theorem getFlag_eq_getLsbD (f : Flag) (p : Byte) : getFlag f p = p.getLsbD f.position := by
  have hmask : f.mask ≠ 0#8 := by cases f <;> decide
  rw [getFlag, f.mask_eq_twoPow, BitVec.and_twoPow, ← f.mask_eq_twoPow]
  cases p.getLsbD f.position <;> simp [hmask]

/-- Writing a flag does not change what another flag reads (10_state R16, R17). -/
theorem getFlag_setFlag_other {f g : Flag} (h : g ≠ f) (b : Bool) (p : Byte) :
    getFlag g (setFlag f b p) = getFlag g p := by
  rw [getFlag_eq_getLsbD, getFlag_eq_getLsbD, getLsbD_setFlag f b p g.position_lt,
    if_neg (Flag.position_injective.ne h)]

/-- Settles O36: every mask is a single bit of P, and different flags have different ones. -/
theorem flagsAreIndependentBits : Obligations.FlagsAreIndependentBits := by
  unfold Obligations.FlagsAreIndependentBits
  intro position f b p
  have hposition : position f = f.position := by cases f <;> rfl
  rw [hposition]
  refine ⟨fun k hk => getLsbD_setFlag f b p hk, getFlag_eq_getLsbD f p, fun g hg => ?_⟩
  rw [getFlag_setFlag_other hg, getFlag_setFlag_other hg]

end Sys2Proof.Machine
end

section
/-! What every instruction does, said once: the step fetches all its bytes and latches IR, and then its effect runs on the
state this leaves (40_step R91, R93, R94). -/
namespace Sys2Proof.Machine

variable (s : State)

/-- The state once all bytes of an instruction are fetched: PC and CYC moved by its length, IR latched (30_encoding R74,
40_step R93). -/
def State.fetched (m : Mnemonic) : State :=
  { s with pc := s.pc + BitVec.ofNat 16 m.length, cyc := s.cyc + m.length, ir := some (decodedOf m) }

/-- What an instruction's behaviour does after its bytes are fetched (41 R110 to R112, 42 R120, R121, 43 R130 to R133,
44 R140). -/
def effect : Instr → State → State
  | .sty a, s => s.storeRegister a s.yr
  | .sta a, s => s.storeRegister a s.ac
  | .stx a, s => s.storeRegister a s.xr
  | .ldy imm, s => (s.setYr imm).setNZ imm
  | .ldx imm, s => (s.setXr imm).setNZ imm
  | .lda imm, s => (s.setAc imm).setNZ imm
  | .dec a, s => s.modifyByte a dec8
  | .nop, s => s
  | .inc a, s => s.modifyByte a inc8

/-- An implied instruction has fetched all its bytes with its opcode (30_encoding R71). -/
theorem State.consumeImplied_eq_fetched {m : Mnemonic} (h : m.format = .imp) :
    (s.beginInstr m).consumeImplied = s.fetched m := by
  simp [State.consumeImplied, State.beginInstr_eq, State.fetched, Mnemonic.length, h, Format.length]

/-- An immediate instruction has fetched all its bytes with its operand (30_encoding R72). -/
theorem State.consumeImmediate_eq_fetched {m : Mnemonic} (h : m.format = .imm) :
    (s.beginInstr m).consumeImmediate = s.fetched m := by
  simp [State.consumeImmediate_beginInstr, State.fetched, Mnemonic.length, h, Format.length]

/-- An absolute instruction has fetched all its bytes with its address (30_encoding R73). -/
theorem State.consumeAbsolute_eq_fetched {m : Mnemonic} (h : m.format = .abs) :
    (s.beginInstr m).consumeAbsolute = s.fetched m := by
  simp [State.consumeAbsolute_beginInstr, State.fetched, Mnemonic.length, h, Format.length]

/-- Every instruction answers the state its effect leaves (40_step R94). -/
theorem exec_eq_next_effect (i : Instr) : exec i s = .next (effect i (s.fetched i.mnemonic)) := by
  cases i with
  | sty a => rw [exec, execSty, s.consumeAbsolute_eq_fetched rfl]; rfl
  | sta a => rw [exec, execSta, s.consumeAbsolute_eq_fetched rfl]; rfl
  | stx a => rw [exec, execStx, s.consumeAbsolute_eq_fetched rfl]; rfl
  | ldy imm => rw [exec, execLdy, s.consumeImmediate_eq_fetched rfl]; rfl
  | ldx imm => rw [exec, execLdx, s.consumeImmediate_eq_fetched rfl]; rfl
  | lda imm => rw [exec, execLda, s.consumeImmediate_eq_fetched rfl]; rfl
  | dec a => rw [exec, execDec, s.consumeAbsolute_eq_fetched rfl]; rfl
  | nop => rw [exec, execNop, s.consumeImplied_eq_fetched rfl]; rfl
  | inc a => rw [exec, execInc, s.consumeAbsolute_eq_fetched rfl]; rfl

/-- The one state an instruction can answer. -/
theorem eq_effect_of_exec {i : Instr} {s t : State} (h : exec i s = .next t) : t = effect i (s.fetched i.mnemonic) := by
  rw [exec_eq_next_effect] at h
  exact (Host.Outcome.next.inj h).symm

@[simp] theorem State.fetched_ac (m : Mnemonic) : (s.fetched m).ac = s.ac := rfl
@[simp] theorem State.fetched_xr (m : Mnemonic) : (s.fetched m).xr = s.xr := rfl
@[simp] theorem State.fetched_yr (m : Mnemonic) : (s.fetched m).yr = s.yr := rfl

@[simp] theorem State.storeRegister_ac (a : Addr) (r : Byte) : (s.storeRegister a r).ac = s.ac := rfl
@[simp] theorem State.storeRegister_xr (a : Addr) (r : Byte) : (s.storeRegister a r).xr = s.xr := rfl
@[simp] theorem State.storeRegister_yr (a : Addr) (r : Byte) : (s.storeRegister a r).yr = s.yr := rfl

@[simp] theorem State.modifyByte_ac (a : Addr) (f : Byte → Byte) : (s.modifyByte a f).ac = s.ac := rfl
@[simp] theorem State.modifyByte_xr (a : Addr) (f : Byte → Byte) : (s.modifyByte a f).xr = s.xr := rfl
@[simp] theorem State.modifyByte_yr (a : Addr) (f : Byte → Byte) : (s.modifyByte a f).yr = s.yr := rfl

end Sys2Proof.Machine
end

section
/-! What the host can see (10_state R24). -/
namespace Sys2Proof.Machine

variable (s : State)

@[simp] theorem State.introspect_pc : s.introspect.pc = s.pc := rfl
@[simp] theorem State.introspect_ac : s.introspect.ac = s.ac := rfl
@[simp] theorem State.introspect_xr : s.introspect.xr = s.xr := rfl
@[simp] theorem State.introspect_yr : s.introspect.yr = s.yr := rfl
@[simp] theorem State.introspect_p : s.introspect.p = s.p := rfl
@[simp] theorem State.introspect_cyc : s.introspect.cyc = s.cyc := rfl
@[simp] theorem State.introspect_ir : s.introspect.ir = s.ir.map (fun d => (d.name, d.opcode)) := rfl

/-- SP, HALT and the cost in the IR slot are not observable (10_state R24). -/
theorem State.introspect_hidden (x : Addr) (h : Bool) (c : Nat) :
    State.introspect { s with sp := x, halt := h, ir := s.ir.map (fun d => { d with cost := c }) } = s.introspect := by
  simp [State.introspect, Function.comp_def]

/-- Memory is no part of introspection, and a poke changes nothing else (10_state R24, 20_memory R55). -/
theorem State.introspect_poke (a : Addr) (v : Byte) : (s.poke a v).introspect = s.introspect := rfl

/-- Settles O48: introspection copies the visible fields and drops the others. -/
theorem hostSeesIntrospection : Obligations.HostSeesIntrospection := by
  intro s
  refine ⟨s.introspect_pc, s.introspect_ac, s.introspect_xr, s.introspect_yr, s.introspect_p, s.introspect_cyc, ?_, ?_,
    s.introspect_hidden, s.introspect_poke⟩
  · rw [State.introspect_ir, Option.map_eq_none_iff]
  · intro d hd
    rw [State.introspect_ir, hd, Option.map_some]

end Sys2Proof.Machine
end

section
/-! AC, XR and YR: each written by its load only and read by its store only (10_state R11). -/
namespace Sys2Proof.Machine

variable (s : State) (v : Byte)

theorem State.fetched_setAc (m : Mnemonic) : (s.setAc v).fetched m = (s.fetched m).setAc v := rfl
theorem State.fetched_setXr (m : Mnemonic) : (s.setXr v).fetched m = (s.fetched m).setXr v := rfl
theorem State.fetched_setYr (m : Mnemonic) : (s.setYr v).fetched m = (s.fetched m).setYr v := rfl

/-- Only STA reads AC: any other instruction does the same with another AC, but for AC itself. -/
theorem effect_setAc {i : Instr} (hi : ∀ a : Addr, i ≠ .sta a) :
    (effect i (s.setAc v)).setAc (effect i s).ac = effect i s := by
  cases i with
  | sta a => exact absurd rfl (hi a)
  | _ => rfl

/-- Only STX reads XR. -/
theorem effect_setXr {i : Instr} (hi : ∀ a : Addr, i ≠ .stx a) :
    (effect i (s.setXr v)).setXr (effect i s).xr = effect i s := by
  cases i with
  | stx a => exact absurd rfl (hi a)
  | _ => rfl

/-- Only STY reads YR. -/
theorem effect_setYr {i : Instr} (hi : ∀ a : Addr, i ≠ .sty a) :
    (effect i (s.setYr v)).setYr (effect i s).yr = effect i s := by
  cases i with
  | sty a => exact absurd rfl (hi a)
  | _ => rfl

/-- No host command writes a register but a step at a recognised opcode (10_state R11, 40_step R92, 70_reset R171). -/
theorem hostDo_keeps_registers {c : HostCommand} {s t : State} (h : hostDo c s = .next t)
    (hstep : c = .step → lookup (s.readByte s.pc) = none) : t.ac = s.ac ∧ t.xr = s.xr ∧ t.yr = s.yr := by
  cases c with
  | poke a v =>
    obtain rfl := Host.Outcome.next.inj h
    exact ⟨s.writeByte_ac a v, s.writeByte_xr a v, s.writeByte_yr a v⟩
  | reset =>
    obtain rfl := Host.Outcome.next.inj h
    exact ⟨s.cpuReset_ac, s.cpuReset_xr, s.cpuReset_yr⟩
  | step =>
    rw [hostDo, step_of_lookup_none (hstep rfl), State.skipUnrecognised_eq] at h
    obtain rfl := Host.Outcome.next.inj h
    exact ⟨rfl, rfl, rfl⟩

/-- Settles O41: the effect of each instruction writes and reads the registers as R11 says, and fetching its bytes touches
none. -/
theorem registersHaveOneWriterAndOneReader : Obligations.RegistersHaveOneWriterAndOneReader := by
  refine ⟨fun i s t h => ?_, fun i s t v h => ?_, fun s => ⟨s.introspect_ac, s.introspect_xr, s.introspect_yr⟩,
    fun c s t h hstep => hostDo_keeps_registers h hstep⟩
  · obtain rfl := eq_effect_of_exec h
    cases i <;> simp [effect]
  · obtain rfl := eq_effect_of_exec h
    refine ⟨fun hi => ⟨_, exec_eq_next_effect (s.setAc v) i, ?_⟩, fun hi => ⟨_, exec_eq_next_effect (s.setXr v) i, ?_⟩,
      fun hi => ⟨_, exec_eq_next_effect (s.setYr v) i, ?_⟩⟩
    · rw [State.fetched_setAc]
      exact effect_setAc (s.fetched i.mnemonic) v hi
    · rw [State.fetched_setXr]
      exact effect_setXr (s.fetched i.mnemonic) v hi
    · rw [State.fetched_setYr]
      exact effect_setYr (s.fetched i.mnemonic) v hi

end Sys2Proof.Machine
end

section
/-! Writing a byte of memory (20_memory R42). -/
namespace Sys2Proof.Machine

/-- The byte just written is read back. -/
theorem State.readByte_writeByte_same (s : State) (a : Addr) (v : Byte) : (s.writeByte a v).readByte a = v := by
  rw [State.readByte_writeByte, if_pos rfl]

/-- A write leaves every other byte as it was. -/
theorem State.readByte_writeByte_other (s : State) {a b : Addr} (v : Byte) (h : b ≠ a) :
    (s.writeByte a v).readByte b = s.readByte b := by
  rw [State.readByte_writeByte, if_neg h]

/-- Settles O29: the two cases of a read after a write, and the memory the write leaves in the state. -/
theorem writeThenRead : Obligations.WriteThenRead := fun s a v =>
  ⟨s.readByte_writeByte_same a v, fun _ h => s.readByte_writeByte_other v h, s.mem.write a v, rfl⟩

end Sys2Proof.Machine
end

section
/-! Decoding the instruction at the head of a list: the opcode byte selects the operation, and the operand bytes are taken
from what follows it (30_encoding R70 to R79). -/
namespace Sys2Proof

variable {op : Byte} {m : Mnemonic} {bytes rest : List Byte} {i : Instr}

/-- The opcode of an operation selects its operand form. -/
theorem decode_opcode (m : Mnemonic) (bytes : List Byte) : decode (m.opcode :: bytes) = decodeOperand m bytes := by
  rw [decode, lookup_opcode]

/-- An unrecognised opcode is rejected by name, whatever follows it (30_encoding R79). -/
theorem decode_of_lookup_none (h : lookup op = none) (bytes : List Byte) :
    decode (op :: bytes) = .error (.unrecognised op) := by
  rw [decode, h]

/-- What the decoder accepts begins with the opcode of an operation, whose operand follows. -/
theorem opcode_of_decode (h : decode (op :: bytes) = .ok (i, rest)) :
    ∃ m : Mnemonic, op = m.opcode ∧ decodeOperand m bytes = .ok (i, rest) := by
  cases hop : lookup op with
  | none =>
    rw [decode_of_lookup_none hop] at h
    cases h
  | some m =>
    obtain rfl := opcode_of_lookup hop
    exact ⟨m, rfl, decode_opcode m bytes ▸ h⟩

/-- An immediate is the first byte, as it stands (30_encoding R76). -/
theorem takeImmediate_eq_ok_iff {build : Byte → Instr} :
    takeImmediate m build bytes = .ok (i, rest) ↔ ∃ imm : Byte, bytes = imm :: rest ∧ i = build imm := by
  cases bytes with
  | nil => simp [takeImmediate]
  | cons imm tail => simp [takeImmediate, eq_comm, and_comm]

/-- An absolute address is the first two bytes, low byte first (30_encoding R77). -/
theorem takeAbsolute_eq_ok_iff {build : Addr → Instr} :
    takeAbsolute m build bytes = .ok (i, rest) ↔ ∃ lo hi : Byte, bytes = lo :: hi :: rest ∧ i = build (word hi lo) := by
  match bytes with
  | [] => simp [takeAbsolute]
  | [_] => simp [takeAbsolute]
  | lo :: hi :: tail => simp [takeAbsolute, eq_comm, and_comm]

/-- The value of a word is hi * 256 + lo (00_scope section 7.1). -/
theorem word_toNat (hi lo : Byte) : (word hi lo).toNat = hi.toNat * 256 + lo.toNat := by
  rw [word, BitVec.toNat_append, ← Nat.shiftLeft_add_eq_or_of_lt lo.isLt, Nat.shiftLeft_eq]

/-- Settles O12: each opcode selects its operand form, and the address is `word byte2 byte1`. -/
theorem operandAssembly : Obligations.OperandAssembly :=
  ⟨fun v rest => ⟨decode_opcode .lda (v :: rest), decode_opcode .ldx (v :: rest), decode_opcode .ldy (v :: rest)⟩,
    fun byte1 byte2 rest => ⟨word byte2 byte1, word_toNat byte2 byte1,
      decode_opcode .inc (byte1 :: byte2 :: rest), decode_opcode .dec (byte1 :: byte2 :: rest),
      decode_opcode .sta (byte1 :: byte2 :: rest), decode_opcode .stx (byte1 :: byte2 :: rest),
      decode_opcode .sty (byte1 :: byte2 :: rest)⟩⟩

/-- The ranges of 30_encoding R79 are the gaps between the nine opcodes. -/
theorem unrecognised_ranges_iff (op : Byte) :
    (op.toNat ≤ 0x8B ∨ (0x8F ≤ op.toNat ∧ op.toNat ≤ 0x9F) ∨ op.toNat = 0xA1 ∨ (0xA3 ≤ op.toNat ∧ op.toNat ≤ 0xA8) ∨
        (0xAA ≤ op.toNat ∧ op.toNat ≤ 0xCD) ∨ (0xCF ≤ op.toNat ∧ op.toNat ≤ 0xE9) ∨
        (0xEB ≤ op.toNat ∧ op.toNat ≤ 0xED) ∨ 0xEF ≤ op.toNat) ↔
      op ∉ [(0xA9 : Byte), 0xA2, 0xA0, 0xEA, 0xCE, 0xEE, 0x8D, 0x8E, 0x8C] := by
  simp only [List.mem_cons, List.not_mem_nil, or_false, BitVec.toNat_eq, BitVec.ofNat_eq_ofNat, BitVec.toNat_ofNat]
  omega

namespace Machine

/-- Settles O14: the ranges are the gaps between the opcodes, and at a byte `lookup` does not find the decoder rejects and
the step skips. -/
theorem unrecognisedRanges : Obligations.UnrecognisedRanges := by
  intro op
  refine ⟨unrecognised_ranges_iff op, fun hop => ⟨?_, (instructionSetClosed op).2 hop⟩⟩
  exact decode_of_lookup_none (lookup_eq_none_of_not_mem_nine hop)

end Machine
end Sys2Proof
end

section
/-! The length of an instruction, fixed by its opcode byte alone (30_encoding R74), and the advance of PC by it. -/
namespace Sys2Proof

/-- The length an opcode byte fixes, read off the byte: 1 for NOP and every unrecognised byte, 2 for the loads, 3 for the
absolute instructions (30_encoding R74, R79). -/
def opcodeLength (op : Byte) : Nat :=
  if op = 0xEA then 1
  else if op ∈ [(0xA9 : Byte), 0xA2, 0xA0] then 2
  else if op ∈ [(0xCE : Byte), 0xEE, 0x8D, 0x8E, 0x8C] then 3
  else 1

theorem opcodeLength_opcode (m : Mnemonic) : opcodeLength m.opcode = m.length := by cases m <;> rfl

theorem opcodeLength_of_lookup_none {op : Byte} (h : lookup op = none) : opcodeLength op = 1 := by
  have habs : op ∉ [(0xCE : Byte), 0xEE, 0x8D, 0x8E, 0x8C] := by
    intro hop
    fin_cases hop <;> cases h
  have himm : op ∉ [(0xA9 : Byte), 0xA2, 0xA0] := by
    intro hop
    fin_cases hop <;> cases h
  rw [opcodeLength, if_neg himm, if_neg habs, ite_self]

/-- The decoder consumes, after the opcode, the operand bytes that complete the operation's length. -/
theorem length_of_decodeOperand {m : Mnemonic} {bytes rest : List Byte} {i : Instr}
    (h : decodeOperand m bytes = .ok (i, rest)) : bytes.length + 1 = m.length + rest.length := by
  cases m with
  | nop =>
    cases h
    exact Nat.add_comm _ _
  | ldy | ldx | lda =>
    obtain ⟨imm, rfl, -⟩ := takeImmediate_eq_ok_iff.mp h
    exact Nat.add_comm _ 2
  | sty | sta | stx | dec | inc =>
    obtain ⟨lo, hi, rfl, -⟩ := takeAbsolute_eq_ok_iff.mp h
    exact Nat.add_comm _ 3

/-- The decoder consumes as many bytes as the opcode fixes. -/
theorem length_of_decode {op : Byte} {bytes rest : List Byte} {i : Instr} (h : decode (op :: bytes) = .ok (i, rest)) :
    (op :: bytes).length = opcodeLength op + rest.length := by
  obtain ⟨m, rfl, hm⟩ := opcode_of_decode h
  rw [opcodeLength_opcode]
  exact length_of_decodeOperand hm

namespace Machine

variable (s : State)

@[simp] theorem operandInstr_mnemonic (m : Mnemonic) (b1 b2 : Byte) : (operandInstr m b1 b2).mnemonic = m := by
  cases m <;> rfl

@[simp] theorem State.fetched_pc (m : Mnemonic) : (s.fetched m).pc = s.pc + BitVec.ofNat 16 m.length := rfl

/-- No instruction transfers control: its effect leaves PC behind the bytes fetched (40_step R100). -/
@[simp] theorem effect_pc (i : Instr) : (effect i s).pc = s.pc := by cases i <;> rfl

/-- Every step answers a state whose PC is moved by the length the opcode byte fixes (30_encoding R74). -/
theorem step_pc : ∃ t : State, step s = .next t ∧ t.pc = s.pc + BitVec.ofNat 16 (opcodeLength (s.readByte s.pc)) := by
  obtain ⟨hnone, hstep⟩ | ⟨m, hsome, hstep⟩ := step_cases s
  · refine ⟨_, hstep, ?_⟩
    rw [opcodeLength_of_lookup_none hnone]
    rfl
  · refine ⟨_, hstep.trans (exec_eq_next_effect s _), ?_⟩
    rw [opcode_of_lookup hsome, opcodeLength_opcode, effect_pc, State.fetched_pc, operandInstr_mnemonic]

/-- `reset()` loads PC with the word at the reset vector (10_state R13). -/
theorem State.cpuReset_pc_eq_append : s.cpuReset.pc = s.readByte 0xFFFD ++ s.readByte 0xFFFC := rfl

/-- Settles O24: decoder and step both go by `opcodeLength`, and neither poke nor reset() does. -/
theorem lengthFixedByOpcode : Obligations.LengthFixedByOpcode := by
  refine ⟨fun op bytes rest i h => length_of_decode h, fun s => ?_, fun s a v => s.writeByte_pc a v,
    fun s => s.cpuReset_pc_eq_append⟩
  obtain ⟨t, hstep, hpc⟩ := step_pc s
  refine ⟨t, hstep, ?_⟩
  rw [hpc, BitVec.toNat_add, BitVec.toNat_ofNat, Nat.add_mod_mod]
  rfl

end Machine
end Sys2Proof
end

section
/-! The ALU and the N and Z flags (40_step R97, R98). -/
namespace Sys2Proof.Machine

/-- Adding a byte `n` times is one addition modulo 256. -/
theorem toNat_iterate_add (c v : Byte) (n : Nat) : ((fun x : Byte => x + c)^[n] v).toNat = (v.toNat + c.toNat * n) % 256 := by
  induction n with
  | zero => exact (Nat.mod_eq_of_lt v.isLt).symm
  | succ n ih => rw [Function.iterate_succ_apply', BitVec.toNat_add, ih, Nat.mod_add_mod, Nat.mul_succ, Nat.add_assoc]

/-- DEC8 adds 255 modulo 256 (40_step R98). -/
theorem dec8_eq_add : dec8 = fun v : Byte => v + 255 := by
  funext v
  exact BitVec.sub_eq_add_neg v 1

/-- Settles O38: INC8 adds 1 and DEC8 adds 255, and an iterated addition is one addition. -/
theorem incDecWrapModulo256 : Obligations.IncDecWrapModulo256 := by
  intro n v
  constructor
  · exact (toNat_iterate_add 1 v n).trans (by rw [show (1 : Byte).toNat = 1 from rfl, Nat.one_mul])
  · rw [dec8_eq_add]
    exact toNat_iterate_add 255 v n

/-- `SetNZ` at each bit of P: Z and N are written from the value, every other bit is kept (40_step R97). -/
theorem getLsbD_setNZ (v p : Byte) {k : Nat} (hk : k < 8) :
    (setNZ v p).getLsbD k = if k = 1 then decide (v = 0x00) else if k = 7 then v.getLsbD 7 else p.getLsbD k := by
  rw [setNZ, getLsbD_setFlag _ _ _ hk, getLsbD_setFlag _ _ _ hk, Flag.position, Flag.position]
  by_cases hz : k = 1
  · subst hz
    rfl
  · rw [if_neg hz, if_neg hz]
    rfl

/-- Settles O37: each bit by `getLsbD_setNZ`; Z is set only from 0x00, whose bit 7 is clear. -/
theorem setNZWritesBoth : Obligations.SetNZWritesBoth := by
  intro s v
  refine ⟨fun k hk => getLsbD_setNZ v s.p hk, ?_, _, rfl⟩
  rintro ⟨hz, hn⟩
  have hzero : v = 0x00 := of_decide_eq_true ((getLsbD_setNZ v s.p (by decide)).symm.trans hz)
  have hneg : v.getLsbD 7 = true := (getLsbD_setNZ v s.p (by decide)).symm.trans hn
  rw [hzero] at hneg
  exact absurd hneg (by decide)

end Sys2Proof.Machine
end

section
/-! The step one access at a time (40_step R91 to R93): what each behaviour leaves is the effect of the instruction that
decoding makes of the operation and its operand bytes. -/
namespace Sys2Proof.Machine

/-- `fetchByte`: what it reads, the state it leaves and its access (20_memory R46). -/
theorem fetchByte_eq (a : Addr) (b : Bus) :
    fetchByte a b = (b.state.readByte a, ⟨b.state.advance 1, b.log ++ [.read a]⟩) := rfl

/-- `fetchWord`: what it reads, the state it leaves and its accesses (20_memory R47). -/
theorem fetchWord_eq (a : Addr) (b : Bus) :
    fetchWord a b = (b.state.readWord a, ⟨b.state.advance 2, b.log ++ [.read a] ++ [.read (a + 1)]⟩) := rfl

/-- A load's behaviour, on the state. -/
theorem busLoad_state (set : State → Byte → State) (b : Bus) :
    (busLoad set b).state =
      (set (b.state.advance 1) (b.state.readByte b.state.pc)).setNZ (b.state.readByte b.state.pc) := rfl

/-- The behaviour of INC and DEC, on the state. -/
theorem busModify_state (change : Byte → Byte) (b : Bus) :
    (busModify change b).state = (b.state.advance 2).modifyByte (b.state.readWord b.state.pc) change := rfl

/-- A store's behaviour, on the state, in both modes. -/
theorem busStore_state (register : State → Byte) (b : Bus) :
    (busStore register b).state =
      (b.state.advance 2).storeRegister (b.state.readWord b.state.pc) (register (b.state.advance 2)) := by
  simp only [busStore, fetchWord_eq, State.storeRegister, State.advance_storeMode]
  cases b.state.storeMode with
  | assign => rfl
  | subtract => rfl

variable (s : State)

/-- The operand byte of an immediate instruction stands behind its opcode. -/
theorem State.readByte_beginInstr_pc (m : Mnemonic) :
    (s.beginInstr m).readByte (s.beginInstr m).pc = s.readByte (s.pc + 1) := rfl

/-- The operand bytes of an absolute instruction stand behind its opcode. -/
theorem State.readWord_beginInstr_pc (m : Mnemonic) :
    (s.beginInstr m).readWord (s.beginInstr m).pc = word (s.readByte (s.pc + 2)) (s.readByte (s.pc + 1)) := by
  rw [show s.pc + 2 = s.pc + 1 + 1 from (BitVec.add_assoc s.pc 1 1).symm]
  rfl

/-- A load's behaviour behind the opcode fetch has fetched the whole instruction. -/
theorem busLoad_beginInstr_state {m : Mnemonic} (h : m.format = .imm) (set : State → Byte → State) (log : List Access) :
    (busLoad set ⟨s.beginInstr m, log⟩).state =
      (set (s.fetched m) (s.readByte (s.pc + 1))).setNZ (s.readByte (s.pc + 1)) := by
  rw [← s.consumeImmediate_eq_fetched h]
  exact busLoad_state set _

/-- The behaviour of INC and DEC behind the opcode fetch. -/
theorem busModify_beginInstr_state {m : Mnemonic} (h : m.format = .abs) (change : Byte → Byte) (log : List Access) :
    (busModify change ⟨s.beginInstr m, log⟩).state =
      (s.fetched m).modifyByte (word (s.readByte (s.pc + 2)) (s.readByte (s.pc + 1))) change := by
  rw [← s.consumeAbsolute_eq_fetched h, ← s.readWord_beginInstr_pc m]
  exact busModify_state change _

/-- A store's behaviour behind the opcode fetch. -/
theorem busStore_beginInstr_state {m : Mnemonic} (h : m.format = .abs) (register : State → Byte) (log : List Access) :
    (busStore register ⟨s.beginInstr m, log⟩).state =
      (s.fetched m).storeRegister (word (s.readByte (s.pc + 2)) (s.readByte (s.pc + 1))) (register (s.fetched m)) := by
  rw [← s.consumeAbsolute_eq_fetched h, ← s.readWord_beginInstr_pc m]
  exact busStore_state register _

/-- The behaviour that pulls its own operand bytes has the effect of the instruction decoded with them (40_step R94,
20_memory R48). -/
theorem behaviour_beginInstr_state (m : Mnemonic) (log : List Access) :
    (behaviour m ⟨s.beginInstr m, log⟩).state =
      effect (operandInstr m (s.readByte (s.pc + 1)) (s.readByte (s.pc + 2))) (s.fetched m) := by
  cases m with
  | sty => exact busStore_beginInstr_state s rfl State.yr log
  | sta => exact busStore_beginInstr_state s rfl State.ac log
  | stx => exact busStore_beginInstr_state s rfl State.xr log
  | ldy => exact busLoad_beginInstr_state s rfl State.setYr log
  | ldx => exact busLoad_beginInstr_state s rfl State.setXr log
  | lda => exact busLoad_beginInstr_state s rfl State.setAc log
  | dec => exact busModify_beginInstr_state s rfl dec8 log
  | nop => exact s.consumeImplied_eq_fetched rfl
  | inc => exact busModify_beginInstr_state s rfl inc8 log

variable {s} {m : Mnemonic}

/-- `step()` at an unrecognised opcode makes one access (40_step R92). -/
theorem busStep_of_lookup_none (h : lookup (s.readByte s.pc) = none) (log : List Access) :
    busStep ⟨s, log⟩ = (.unknownOpcode (s.readByte s.pc), ⟨s.skipUnrecognised, log ++ [.read s.pc]⟩) := by
  simp only [busStep, fetchByte_eq, h]
  rfl

/-- `step()` at a recognised opcode runs the behaviour behind the opcode fetch and the IR slot (40_step R91, R93). -/
theorem busStep_of_lookup_some (h : lookup (s.readByte s.pc) = some m) (log : List Access) :
    busStep ⟨s, log⟩ = (.ok, behaviour m ⟨s.beginInstr m, log ++ [.read s.pc]⟩) := by
  simp only [busStep, fetchByte_eq, h]
  rfl

theorem State.report_of_lookup_none (h : lookup (s.readByte s.pc) = none) :
    s.report = .unknownOpcode (s.readByte s.pc) := by
  rw [State.report, h]

theorem State.report_of_lookup_some (h : lookup (s.readByte s.pc) = some m) : s.report = .ok := by
  rw [State.report, h]

/-- The step at a recognised opcode, as fetch and effect (40_step R91). -/
theorem step_eq_next_effect (h : lookup (s.readByte s.pc) = some m) :
    step s = .next (effect (operandInstr m (s.readByte (s.pc + 1)) (s.readByte (s.pc + 2))) (s.fetched m)) := by
  rw [step_of_lookup_some h, exec_eq_next_effect, operandInstr_mnemonic]

/-- The step at a recognised opcode, as the behaviour behind the opcode fetch (40_step R91). -/
theorem step_eq_next_behaviour (h : lookup (s.readByte s.pc) = some m) (log : List Access) :
    step s = .next (behaviour m ⟨s.beginInstr m, log⟩).state := by
  rw [step_eq_next_effect h, behaviour_beginInstr_state]

/-- The two writings of the step agree, in state and in report (40_step R91, R96). -/
theorem step_report_eq_busStep (s : State) (log : List Access) :
    step s = .next (busStep ⟨s, log⟩).2.state ∧ s.report = (busStep ⟨s, log⟩).1 := by
  cases h : lookup (s.readByte s.pc) with
  | none =>
    rw [busStep_of_lookup_none h]
    exact ⟨step_of_lookup_none h, s.report_of_lookup_none h⟩
  | some m =>
    rw [busStep_of_lookup_some h]
    exact ⟨step_eq_next_behaviour h _, s.report_of_lookup_some h⟩

/-- The IR slot of R93 with the byte fetched in it: the table finds an operation at its own opcode byte only. -/
theorem decodedOf_eq_of_lookup {op : Byte} (h : lookup op = some m) :
    decodedOf m = ⟨Config.name m, op, Config.baseCost m - 1⟩ := by
  rw [opcode_of_lookup h]
  rfl

/-- Settles O18: the two writings of the step agree, and each branch of `lookup` is one of its two cases. -/
theorem stepIsFetchDecodeExecute : Obligations.StepIsFetchDecodeExecute := by
  intro s
  obtain ⟨hstep, hreport⟩ := step_report_eq_busStep s []
  refine ⟨hstep, hreport, fun hnone => ⟨step_of_lookup_none hnone, s.report_of_lookup_none hnone⟩,
    fun m hsome => ⟨?_, s.report_of_lookup_some hsome⟩⟩
  rw [← decodedOf_eq_of_lookup hsome]
  exact step_eq_next_behaviour hsome _

/-- Settles O19: the byte is skipped, after the one access that fetched it. -/
theorem unrecognisedOpcodeSkipped : Obligations.UnrecognisedOpcodeSkipped := by
  intro s h
  rw [busStep_of_lookup_none h]
  exact ⟨step_of_lookup_none h, rfl⟩

@[simp] theorem effect_ir (i : Instr) (s : State) : (effect i s).ir = s.ir := by cases i <;> rfl

@[simp] theorem effect_cyc (i : Instr) (s : State) : (effect i s).cyc = s.cyc := by cases i <;> rfl

@[simp] theorem State.fetched_ir (s : State) (m : Mnemonic) : (s.fetched m).ir = some (decodedOf m) := rfl

@[simp] theorem State.fetched_cyc (s : State) (m : Mnemonic) : (s.fetched m).cyc = s.cyc + m.length := rfl

/-- The step at a recognised opcode overwrites the IR slot without reading it (40_step R93). -/
theorem step_withIr (h : lookup (s.readByte s.pc) = some m) (slot : Option DecodedInstr) :
    step { s with ir := slot } = step s := by
  have hfetched : State.fetched { s with ir := slot } m = s.fetched m := rfl
  rw [step_eq_next_effect h, step_eq_next_effect (s := { s with ir := slot }) h, hfetched]
  rfl

/-- Settles O20: the fetch writes IR and CYC whatever the slot held, and the effect touches neither. -/
theorem recognisedOpcodeLatched : Obligations.RecognisedOpcodeLatched := by
  intro s m h
  have hstep := step_eq_next_effect h
  refine ⟨Nat.succ_pos _, _, hstep, ?_, ?_, fun slot => (step_withIr h slot).trans hstep⟩
  · rw [effect_ir, State.fetched_ir, decodedOf_eq_of_lookup h]
  · rw [effect_cyc, State.fetched_cyc]

end Sys2Proof.Machine
end

section
/-! Runs move PC by the lengths executed, and nothing but reset() moves it elsewhere (40_step R100). -/
namespace Sys2Proof.Machine

variable {s t : State}

/-- The length of the next step is the one its opcode byte fixes (30_encoding R74). -/
theorem State.nextLength_eq_opcodeLength (s : State) : s.nextLength = opcodeLength (s.readByte s.pc) := by
  cases h : lookup (s.readByte s.pc) with
  | none => rw [State.nextLength, h, opcodeLength_of_lookup_none h]
  | some m => rw [State.nextLength, h, opcode_of_lookup h, opcodeLength_opcode]

/-- Every step answers a state whose PC has moved by its length, modulo 65,536. -/
theorem step_toNat_pc (s : State) : ∃ t : State, step s = .next t ∧ t.pc.toNat = (s.pc.toNat + s.nextLength) % 65536 := by
  obtain ⟨t, hstep, hpc⟩ := step_pc s
  refine ⟨t, hstep, ?_⟩
  rw [hpc, BitVec.toNat_add, BitVec.toNat_ofNat, Nat.add_mod_mod, s.nextLength_eq_opcodeLength]

/-- The length of a run that begins with a step to `t`. -/
theorem State.runLength_succ_of_next (n : Nat) (h : step s = .next t) :
    s.runLength (n + 1) = s.nextLength + t.runLength n := by
  rw [State.runLength, h]

/-- A run of any length completes, with PC moved by the sum of the lengths, modulo 65,536. -/
theorem run_toNat_pc (n : Nat) (s : State) :
    ∃ t : State, Host.Core.run Sys2Proof.core n s = .next t ∧ t.pc.toNat = (s.pc.toNat + s.runLength n) % 65536 := by
  induction n generalizing s with
  | zero => exact ⟨s, run_zero s, (Nat.mod_eq_of_lt s.pc.isLt).symm⟩
  | succ n ih =>
    obtain ⟨u, hstep, hu⟩ := step_toNat_pc s
    obtain ⟨t, hrun, ht⟩ := ih u
    refine ⟨t, (run_succ_of_next n hstep).trans hrun, ?_⟩
    rw [ht, hu, Nat.mod_add_mod, Nat.add_assoc, State.runLength_succ_of_next n hstep]

/-- A command other than reset() moves PC by the length of the step it takes, if any. -/
theorem hostDo_toNat_pc {c : HostCommand} (h : hostDo c s = .next t) (hc : c ≠ .reset) :
    t.pc.toNat = (s.pc.toNat + (if c = .step then s.nextLength else 0)) % 65536 := by
  cases c with
  | poke a v =>
    obtain rfl := Host.Outcome.next.inj h
    exact (Nat.mod_eq_of_lt s.pc.isLt).symm
  | reset => exact absurd rfl hc
  | step =>
    obtain ⟨u, hstep, hu⟩ := step_toNat_pc s
    obtain rfl := Host.Outcome.next.inj (hstep.symm.trans h)
    rwa [if_pos rfl]

/-- Settles O25: a run is its steps one after another, and a poke keeps PC. -/
theorem runsAreSequential : Obligations.RunsAreSequential :=
  ⟨run_toNat_pc, fun _ _ _ h hc => hostDo_toNat_pc h hc⟩

end Sys2Proof.Machine
end

section
/-! The loads of an immediate (41_load_immediate): one register, N and Z, and nothing else but the fetch. -/
namespace Sys2Proof

/-- An instruction with one operand byte is an immediate one, and that byte alone gives its operand (30_encoding R72,
R76). -/
theorem immediate_of_operandBytes {i : Instr} {b1 : Byte} (h : i.operandBytes = [b1]) :
    i.mnemonic.format = .imm ∧ ∀ b2 : Byte, Machine.operandInstr i.mnemonic b1 b2 = i := by
  cases i with
  | ldy imm | ldx imm | lda imm =>
    obtain rfl := List.singleton_inj.mp h
    exact ⟨rfl, fun _ => rfl⟩
  | sty a | sta a | stx a | dec a | nop | inc a => cases h

namespace Machine

/-- The N mask of a byte is bit 7 written at N (10_state R14). -/
theorem and_mask_n (v : Byte) : v &&& 0x80 = if v.msb then 0x80 else 0x00 := by
  rw [BitVec.msb_eq_getLsbD_last]
  exact BitVec.and_twoPow v 7

/-- `SetNZ` as one formula on the status byte: N and Z are cleared and written anew, every other bit is kept (40_step
R97). -/
theorem setNZ_eq (v p : Byte) : setNZ v p = (p &&& 0x7D) ||| (if v = 0 then 0x02 else 0x00) ||| (v &&& 0x80) := by
  have hz : setFlag .z (v == 0x00) p = (p &&& 0xFD) ||| (if v = 0 then 0x02 else 0x00) := by
    simp [setFlag, Flag.mask]
  have hmask : (if v = 0 then (0x02 : Byte) else 0x00) &&& 0x7F = if v = 0 then 0x02 else 0x00 := by
    split <;> rfl
  calc setNZ v p
      = ((p &&& 0xFD) ||| (if v = 0 then 0x02 else 0x00)) &&& 0x7F ||| (if v.msb then 0x80 else 0x00) := by
        rw [setNZ, hz]
        rfl
    _ = (p &&& 0xFD &&& 0x7F) ||| (if v = 0 then 0x02 else 0x00) ||| (v &&& 0x80) := by
        rw [BitVec.and_or_distrib_right, hmask, and_mask_n]
    _ = (p &&& 0x7D) ||| (if v = 0 then 0x02 else 0x00) ||| (v &&& 0x80) := by
        rw [BitVec.and_assoc]
        rfl

/-- `SetNZ` on the state writes P and nothing else (40_step R97). -/
theorem State.setNZ_eq (s : State) (v : Byte) :
    s.setNZ v = { s with p := (s.p &&& 0x7D) ||| (if v = 0 then 0x02 else 0x00) ||| (v &&& 0x80) } := by
  rw [State.setNZ, Sys2Proof.Machine.setNZ_eq]

variable {s : State}

/-- An immediate instruction's behaviour makes one access: the read of its operand (20_memory R46, R51). -/
theorem behaviour_log_of_immediate {m : Mnemonic} (h : m.format = .imm) (b : Bus) :
    (behaviour m b).log = b.log ++ [.read b.state.pc] := by
  cases m with
  | ldy | ldx | lda => rfl
  | sty | sta | stx | dec | nop | inc => cases h

/-- Where an instruction of two bytes stands at PC, the step runs it, and its accesses are the reads of the two bytes
(40_step R91, 20_memory R51). -/
theorem step_of_encode_pair {i : Instr} (h : encode i = [s.readByte s.pc, s.readByte (s.pc + 1)]) :
    step s = exec i s ∧ (busStep ⟨s, []⟩).2.log = [.read s.pc, .read (s.pc + 1)] := by
  obtain ⟨hop, hoperand⟩ := List.cons.inj h
  obtain ⟨hformat, hinstr⟩ := immediate_of_operandBytes hoperand
  have hlookup : lookup (s.readByte s.pc) = some i.mnemonic := lookup_eq_some_iff.mpr hop.symm
  constructor
  · rw [step_of_lookup_some hlookup, hinstr]
  · rw [busStep_of_lookup_some hlookup, behaviour_log_of_immediate hformat]
    rfl

/-- What an instruction of two bytes answers, the step answers wherever its encoding stands at PC (40_step R91). -/
theorem exec_encode_step_pair {i : Instr} {t : State} {op v : Byte} (hexec : exec i s = .next t)
    (hencode : encode i = [op, v]) :
    exec i s = .next t ∧ encode i = [op, v] ∧
      (s.readByte s.pc = op → s.readByte (s.pc + 1) = v →
        step s = .next t ∧ (busStep ⟨s, []⟩).2.log = [.read s.pc, .read (s.pc + 1)]) := by
  refine ⟨hexec, hencode, ?_⟩
  rintro rfl rfl
  rw [← hexec]
  exact step_of_encode_pair hencode

/-- Settles O1: after the fetch, LDA writes AC and then N and Z. -/
theorem ldaLoadsRegisterAndSetsNZ : Obligations.LdaLoadsRegisterAndSetsNZ := by
  intro v s
  have heffect := ((s.fetched .lda).setAc v).setNZ_eq v
  exact exec_encode_step_pair ((exec_eq_next_effect s (.lda v)).trans (congrArg _ heffect)) rfl

/-- Settles O2: after the fetch, LDX writes XR and then N and Z. -/
theorem ldxLoadsRegisterAndSetsNZ : Obligations.LdxLoadsRegisterAndSetsNZ := by
  intro v s
  have heffect := ((s.fetched .ldx).setXr v).setNZ_eq v
  exact exec_encode_step_pair ((exec_eq_next_effect s (.ldx v)).trans (congrArg _ heffect)) rfl

/-- Settles O3: after the fetch, LDY writes YR and then N and Z. -/
theorem ldyLoadsRegisterAndSetsNZ : Obligations.LdyLoadsRegisterAndSetsNZ := by
  intro v s
  have heffect := ((s.fetched .ldy).setYr v).setNZ_eq v
  exact exec_encode_step_pair ((exec_eq_next_effect s (.ldy v)).trans (congrArg _ heffect)) rfl

end Machine
end Sys2Proof
end

section
/-! INC and DEC (42_inc_dec_absolute): one byte of memory, N and Z, and nothing else but the fetch. -/
namespace Sys2Proof.Machine

/-- Decoding gives back an instruction that stores from its opcode and the two bytes of its address (30_encoding R77). -/
theorem operandInstr_of_storesTo {i : Instr} {lo hi : Byte} (h : i.storesTo = some (word hi lo)) :
    operandInstr i.mnemonic lo hi = i := by
  cases i with
  | sty a | sta a | stx a | dec a | inc a =>
    obtain rfl := Option.some.inj h
    rfl
  | ldy imm | ldx imm | lda imm | nop => cases h

/-- An instruction that stores is its opcode and the two bytes of its address (30_encoding R73). -/
theorem encode_of_storesTo {i : Instr} {a : Addr} (h : i.storesTo = some a) :
    encode i = [i.mnemonic.opcode, a.extractLsb' 0 8, a.extractLsb' 8 8] := by
  cases i with
  | sty b | sta b | stx b | dec b | inc b =>
    obtain rfl := Option.some.inj h
    rfl
  | ldy imm | ldx imm | lda imm | nop => cases h

variable {s : State}

/-- Where an instruction that stores stands at PC, the step runs it, and its accesses are the opcode fetch and those of
its behaviour (40_step R91, 20_memory R51). -/
theorem step_of_storesTo {i : Instr} (hop : s.readByte s.pc = i.mnemonic.opcode)
    (h : i.storesTo = some (word (s.readByte (s.pc + 2)) (s.readByte (s.pc + 1)))) :
    step s = exec i s ∧
      (busStep ⟨s, []⟩).2.log = (behaviour i.mnemonic ⟨s.beginInstr i.mnemonic, [.read s.pc]⟩).log := by
  have hlookup : lookup (s.readByte s.pc) = some i.mnemonic := lookup_eq_some_iff.mpr hop
  constructor
  · rw [step_of_lookup_some hlookup, operandInstr_of_storesTo h]
  · rw [busStep_of_lookup_some hlookup]
    rfl

/-- What an instruction that stores answers, the step answers wherever its encoding stands at PC, with the accesses of its
behaviour behind the opcode fetch (40_step R91). -/
theorem exec_encode_step_of_storesTo {i : Instr} {a : Addr} {t : State} {accesses : List Access}
    (hstores : i.storesTo = some a) (hexec : exec i s = .next t)
    (hlog : s.readByte (s.pc + 2) ++ s.readByte (s.pc + 1) = a →
      (behaviour i.mnemonic ⟨s.beginInstr i.mnemonic, [.read s.pc]⟩).log = accesses) :
    exec i s = .next t ∧ encode i = [i.mnemonic.opcode, a.extractLsb' 0 8, a.extractLsb' 8 8] ∧
      (s.readByte s.pc = i.mnemonic.opcode → s.readByte (s.pc + 2) ++ s.readByte (s.pc + 1) = a →
        step s = .next t ∧ (busStep ⟨s, []⟩).2.log = accesses) := by
  refine ⟨hexec, encode_of_storesTo hstores, ?_⟩
  rintro hop rfl
  rw [← hexec, ← hlog rfl]
  exact step_of_storesTo hop hstores

/-- The accesses of INC and DEC: the address fetch, then the byte read and the byte written (42_inc_dec R120, R121). -/
theorem busModify_log (change : Byte → Byte) (b : Bus) :
    (busModify change b).log =
      b.log ++ [.read b.state.pc] ++ [.read (b.state.pc + 1)] ++ [.read (b.state.readWord b.state.pc)] ++
        [.write (b.state.readWord b.state.pc) (change (b.state.readByte (b.state.readWord b.state.pc)))] := rfl

/-- The accesses of INC and DEC behind the opcode fetch. -/
theorem busModify_beginInstr_log {m : Mnemonic} {a : Addr}
    (h : s.readByte (s.pc + 2) ++ s.readByte (s.pc + 1) = a) (change : Byte → Byte) :
    (busModify change ⟨s.beginInstr m, [.read s.pc]⟩).log =
      [.read s.pc, .read (s.pc + 1), .read (s.pc + 2), .read a, .write a (change (s.readByte a))] := by
  have haddr : (s.beginInstr m).readWord (s.beginInstr m).pc = a := (s.readWord_beginInstr_pc m).trans h
  have hpc : s.pc + 2 = (s.beginInstr m).pc + 1 := (BitVec.add_assoc s.pc 1 1).symm
  rw [busModify_log, haddr, hpc]
  rfl

/-- A memory change behind the fetch of an absolute instruction (42_inc_dec R120, R121). -/
theorem State.modifyByte_fetched (s : State) {m : Mnemonic} (h : m.format = .abs) (a : Addr) (change : Byte → Byte) :
    (s.fetched m).modifyByte a change =
      let r : Byte := change (s.readByte a)
      { s with mem := s.mem.write a r, p := (s.p &&& 0x7D) ||| (if r = 0 then 0x02 else 0x00) ||| (r &&& 0x80),
               pc := s.pc + 3, cyc := s.cyc + 3, ir := some (decodedOf m) } := by
  rw [← s.consumeAbsolute_eq_fetched h, s.consumeAbsolute_beginInstr, State.modifyByte_eq, Sys2Proof.Machine.setNZ_eq]
  rfl

/-- Settles O4: after the fetch, INC writes the byte at its address and then N and Z. -/
theorem incChangesByteAndSetsNZ : Obligations.IncChangesByteAndSetsNZ := by
  intro a s
  have heffect := s.modifyByte_fetched (m := .inc) rfl a inc8
  exact ⟨s.mem.write a (inc8 (s.readByte a)), fun b => s.mem.read_write a b _,
    exec_encode_step_of_storesTo rfl ((exec_eq_next_effect s (.inc a)).trans (congrArg _ heffect))
      fun h => busModify_beginInstr_log h inc8⟩

/-- Settles O5: after the fetch, DEC writes the byte at its address and then N and Z. -/
theorem decChangesByteAndSetsNZ : Obligations.DecChangesByteAndSetsNZ := by
  intro a s
  have heffect := s.modifyByte_fetched (m := .dec) rfl a dec8
  exact ⟨s.mem.write a (dec8 (s.readByte a)), fun b => s.mem.read_write a b _,
    exec_encode_step_of_storesTo rfl ((exec_eq_next_effect s (.dec a)).trans (congrArg _ heffect))
      fun h => busModify_beginInstr_log h dec8⟩

end Sys2Proof.Machine
end

section
/-! NOP (44_nop): the opcode fetch and the IR slot, and nothing else. -/
namespace Sys2Proof.Machine

variable {s : State}

/-- Where NOP stands at PC, the step runs it and reports OK, and its one access is the opcode fetch (40_step R91, R96). -/
theorem step_of_nop (h : s.readByte s.pc = Mnemonic.opcode .nop) :
    step s = exec .nop s ∧ s.report = .ok ∧ (busStep ⟨s, []⟩).2.log = [.read s.pc] := by
  have hlookup : lookup (s.readByte s.pc) = some .nop := lookup_eq_some_iff.mpr h
  refine ⟨step_of_lookup_some hlookup, s.report_of_lookup_some hlookup, ?_⟩
  rw [busStep_of_lookup_some hlookup]
  rfl

/-- Settles O9: NOP has no effect on the state its fetch leaves. -/
theorem nopOnlyAdvances : Obligations.NopOnlyAdvances := by
  intro s
  have hexec : exec .nop s = .next (s.fetched .nop) := exec_eq_next_effect s .nop
  refine ⟨hexec, rfl, fun hop => ?_⟩
  obtain ⟨hstep, hreport, hlog⟩ := step_of_nop hop
  exact ⟨hstep.trans hexec, hreport, hlog⟩

end Sys2Proof.Machine
end

section
/-! The host's reset() in any state, and again (70_reset R172). -/
namespace Sys2Proof.Machine

variable (s : State)

/-- `reset()` keeps every word of memory, the reset vector's among them (70_reset R171). -/
@[simp] theorem State.readWord_cpuReset (a : Addr) : s.cpuReset.readWord a = s.readWord a := by
  simp only [State.readWord, State.readByte_cpuReset]

/-- `reset()` is idempotent: its PC depends on memory alone and its P on nothing (70_reset R172). -/
@[simp] theorem State.cpuReset_cpuReset : s.cpuReset.cpuReset = s.cpuReset := by
  have hpc : s.cpuReset.cpuReset.pc = s.cpuReset.pc := s.readWord_cpuReset resetVector
  calc s.cpuReset.cpuReset
      = { s.cpuReset with pc := s.cpuReset.cpuReset.pc } := rfl
    _ = s.cpuReset := by rw [hpc]

/-- The decoder's first byte is the one at PC. -/
@[simp] theorem State.head?_fetchWindow : s.fetchWindow.head? = some (s.readByte s.pc) := rfl

/-- Settles O46: what reset() writes and keeps, field by field, and its idempotence. -/
theorem resetCommandIdempotent : Obligations.ResetCommandIdempotent := by
  intro s t h
  obtain rfl : s.cpuReset = t := Host.Outcome.next.inj h
  have hopcode : s.cpuReset.fetchWindow.head? = some (s.readByte (s.readByte 0xFFFD ++ s.readByte 0xFFFC)) := by
    rw [State.head?_fetchWindow, State.readByte_cpuReset, State.cpuReset_pc_eq_append]
  have hagain : hostDo .reset s.cpuReset = .next s.cpuReset := congrArg Host.Outcome.next s.cpuReset_cpuReset
  exact ⟨s.cpuReset_p, s.cpuReset_pc_eq_append, s.cpuReset_ac, s.cpuReset_xr, s.cpuReset_yr, s.cpuReset_mem, hopcode,
    hagain⟩

end Sys2Proof.Machine
end

section
/-! Decoding inverts encoding and encoding inverts decoding (30_encoding sections 1 to 3); the Instruction Table gives each
opcode one row (30_encoding R80). -/
namespace Sys2Proof

@[simp] theorem loByte_word (hi lo : Byte) : loByte (word hi lo) = lo := BitVec.extractLsb'_append_eq_right

@[simp] theorem hiByte_word (hi lo : Byte) : hiByte (word hi lo) = hi := BitVec.extractLsb'_append_eq_left

@[simp] theorem word_hiByte_loByte (a : Addr) : word (hiByte a) (loByte a) = a :=
  (BitVec.extractLsb'_append_extractLsb'_eq_extractLsb' rfl).trans BitVec.extractLsb'_eq_self

variable {m : Mnemonic} {bytes rest : List Byte} {i : Instr}

/-- An operation's operand decoder inverts the operand bytes of its instructions. -/
theorem decodeOperand_operandBytes (i : Instr) (rest : List Byte) :
    decodeOperand i.mnemonic (i.operandBytes ++ rest) = .ok (i, rest) := by
  cases i with
  | ldy imm | ldx imm | lda imm | nop => rfl
  | sty a | sta a | stx a | dec a | inc a => simp [Instr.mnemonic, Instr.operandBytes, decodeOperand, takeAbsolute]

/-- Settles O10: the opcode selects the operand decoder, which inverts the operand bytes. -/
theorem decodeOfEncode : Obligations.DecodeOfEncode := fun i rest =>
  (decode_opcode i.mnemonic (i.operandBytes ++ rest)).trans (decodeOperand_operandBytes i rest)

/-- The operand decoder accepts the operand bytes of an instruction of its operation and nothing else. -/
theorem operandBytes_of_decodeOperand (h : decodeOperand m bytes = .ok (i, rest)) :
    i.mnemonic = m ∧ bytes = i.operandBytes ++ rest := by
  cases m with
  | nop =>
    cases h
    exact ⟨rfl, rfl⟩
  | ldy | ldx | lda =>
    obtain ⟨imm, rfl, rfl⟩ := takeImmediate_eq_ok_iff.mp h
    exact ⟨rfl, rfl⟩
  | sty | sta | stx | dec | inc =>
    obtain ⟨lo, hi, rfl, rfl⟩ := takeAbsolute_eq_ok_iff.mp h
    simp [Instr.mnemonic, Instr.operandBytes]

/-- Settles O11: the list begins with an opcode, and the operand bytes follow. -/
theorem encodeOfDecode : Obligations.EncodeOfDecode := by
  intro bytes rest i h
  cases bytes with
  | nil => cases h
  | cons op bytes =>
    obtain ⟨m, rfl, hm⟩ := opcode_of_decode h
    obtain ⟨rfl, rfl⟩ := operandBytes_of_decodeOperand hm
    rfl

/-- A table is well-formed exactly when its opcodes are pairwise different (93_implementation_defined U2). -/
theorem tableWellFormed_iff_nodup (table : List TableRow) :
    tableWellFormed table = true ↔ (table.map TableRow.opcode).Nodup := by
  induction table with
  | nil => simp [tableWellFormed]
  | cons r rest ih => simp [tableWellFormed, ih]

/-- Settles O15: the rows of a table without a repeated opcode are determined by their opcodes. -/
theorem tableRowsDetermined : Obligations.TableRowsDetermined := by
  refine ⟨rfl, fun table h r hr q hq => ?_⟩
  exact List.inj_on_of_nodup_map ((tableWellFormed_iff_nodup table).mp h) hr hq

/-- Settles O16: each word is its opcode and its operand bytes, read by the decoder. -/
theorem sampleWordsDecode : Obligations.SampleWordsDecode := by
  unfold Obligations.SampleWordsDecode
  decide

end Sys2Proof
end

section
/-! Every operation answers a next state, and what it answers, said once for the step: the skip of one byte, or the effect
of the instruction decoded at PC (40_step R91 to R95). -/
namespace Sys2Proof.Machine

variable {s t : State}

/-- Every step answers a next state (40_step R95). -/
theorem step_answers (s : State) : ∃ t : State, step s = .next t := by
  obtain ⟨t, hstep, -⟩ := step_pc s
  exact ⟨t, hstep⟩

/-- Everything the state after a step can be. -/
theorem eq_skip_or_effect_of_step (h : step s = .next t) :
    (lookup (s.readByte s.pc) = none ∧ t = s.skipUnrecognised) ∨
    ∃ i : Instr, lookup (s.readByte s.pc) = some i.mnemonic ∧ t = effect i (s.fetched i.mnemonic) := by
  obtain ⟨hnone, hstep⟩ | ⟨m, hsome, hstep⟩ := step_cases s
  · exact .inl ⟨hnone, Host.Outcome.next.inj (h.symm.trans hstep)⟩
  · exact .inr ⟨_, by rw [operandInstr_mnemonic, hsome], eq_effect_of_exec (hstep.symm.trans h)⟩

/-- Settles O22: an instruction answers its effect, a step one of its two cases, a poke and reset() their update. -/
theorem nothingFaults : Obligations.NothingFaults := by
  refine ⟨fun i s => ⟨_, exec_eq_next_effect s i⟩, step_answers, fun c s => ?_⟩
  cases c with
  | poke a v => exact ⟨_, rfl⟩
  | reset => exact ⟨_, rfl⟩
  | step => exact step_answers s

/-- Settles O17: the step is its own case on the decoder, whose only error there is the unrecognised opcode. -/
theorem stepRunsDecoded : Obligations.StepRunsDecoded := by
  refine fun s => ⟨fun i rest h => ?_, fun e h => ⟨decode_fetchWindow_error h, ?_⟩⟩
  · rw [step, h]
  · rw [step, h]

/-- Settles O21: an unrecognised opcode is reported and clears IR; a recognised one is OK and latches IR. -/
theorem reportTellsIrAfter : Obligations.ReportTellsIrAfter := by
  intro s
  cases h : lookup (s.readByte s.pc) with
  | none =>
    refine ⟨_, step_of_lookup_none h, ?_⟩
    have hir : s.skipUnrecognised.ir = none := rfl
    simp [s.report_of_lookup_none h, hir]
  | some m =>
    refine ⟨_, step_eq_next_effect h, ?_⟩
    simp [s.report_of_lookup_some h]

end Sys2Proof.Machine
end

section
/-! What the effect of an instruction does to each part of the state: memory at its own address only, P by `SetNZ` only, SP,
HALT and STORE_MODE not at all (20_memory R51, 10_state R12, R19, R22). -/
namespace Sys2Proof.Machine

variable (s : State)

@[simp] theorem State.fetched_sp (m : Mnemonic) : (s.fetched m).sp = s.sp := rfl
@[simp] theorem State.fetched_p (m : Mnemonic) : (s.fetched m).p = s.p := rfl
@[simp] theorem State.fetched_halt (m : Mnemonic) : (s.fetched m).halt = s.halt := rfl
@[simp] theorem State.fetched_mem (m : Mnemonic) : (s.fetched m).mem = s.mem := rfl
@[simp] theorem State.fetched_storeMode (m : Mnemonic) : (s.fetched m).storeMode = s.storeMode := rfl
@[simp] theorem State.readByte_fetched (m : Mnemonic) (a : Addr) : (s.fetched m).readByte a = s.readByte a := rfl

@[simp] theorem effect_sp (i : Instr) : (effect i s).sp = s.sp := by cases i <;> rfl
@[simp] theorem effect_halt (i : Instr) : (effect i s).halt = s.halt := by cases i <;> rfl
@[simp] theorem effect_storeMode (i : Instr) : (effect i s).storeMode = s.storeMode := by cases i <;> rfl

variable {i : Instr} {a : Addr}

/-- An instruction that stores nothing keeps memory (20_memory R51). -/
theorem effect_mem_of_storesTo_none (h : i.storesTo = none) : (effect i s).mem = s.mem := by
  cases i with
  | ldy imm | ldx imm | lda imm | nop => rfl
  | sty a | sta a | stx a | dec a | inc a => cases h

/-- An instruction that stores writes the one byte at its address (20_memory R51). -/
theorem effect_mem_of_storesTo_some (h : i.storesTo = some a) : ∃ v : Byte, (effect i s).mem = s.mem.write a v := by
  cases i with
  | sty b | sta b | stx b | dec b | inc b =>
    obtain rfl := Option.some.inj h
    exact ⟨_, rfl⟩
  | ldy imm | ldx imm | lda imm | nop => cases h

variable {s} {t : State}

/-- Settles O33: the step is the skip, which keeps memory, or the effect of the decoded instruction. -/
theorem stepWritesOnlyItsAddress : Obligations.StepWritesOnlyItsAddress := by
  intro s t h
  obtain ⟨hdecoded, hskipped⟩ := stepRunsDecoded s
  constructor
  · intro e he
    obtain rfl := Host.Outcome.next.inj ((hskipped e he).2.symm.trans h)
    rfl
  · intro i rest hi
    obtain rfl := eq_effect_of_exec ((hdecoded i rest hi).symm.trans h)
    refine ⟨fun hnone => effect_mem_of_storesTo_none _ hnone, fun a hsome b hb => ?_⟩
    obtain ⟨v, hmem⟩ := effect_mem_of_storesTo_some (s.fetched i.mnemonic) hsome
    rw [State.readByte, hmem, Memory.read_write_other _ v hb]
    rfl

/-- Every effect keeps memory canonical. -/
theorem effect_mem_wf (i : Instr) (h : s.mem.wf) : (effect i s).mem.wf := by
  cases hstores : i.storesTo with
  | none => rwa [effect_mem_of_storesTo_none s hstores]
  | some a =>
    obtain ⟨v, hmem⟩ := effect_mem_of_storesTo_some s hstores
    rw [hmem]
    exact Memory.wf_write h a v

/-- Every step keeps memory canonical. -/
theorem step_mem_wf (hmem : s.mem.wf) (h : step s = .next t) : t.mem.wf := by
  obtain ⟨-, rfl⟩ | ⟨i, -, rfl⟩ := eq_skip_or_effect_of_step h
  · exact hmem
  · exact effect_mem_wf i hmem

/-- Settles O49: the memory after a command is the one before it or a write to it. -/
theorem memoryFormKept : Obligations.MemoryFormKept := by
  refine ⟨fun i s t hmem h => ?_, fun c s t hmem h => ?_⟩
  · obtain rfl := eq_effect_of_exec h
    exact effect_mem_wf i hmem
  · cases c with
    | poke a v =>
      obtain rfl := Host.Outcome.next.inj h
      exact Memory.wf_write hmem a v
    | reset =>
      obtain rfl := Host.Outcome.next.inj h
      exact hmem
    | step => exact step_mem_wf hmem h

/-- Settles O43: neither the fetch, the skip, any effect nor the host's own updates touch the three. -/
theorem inertStateKept : Obligations.InertStateKept := by
  intro c s t h
  cases c with
  | poke a v =>
    obtain rfl := Host.Outcome.next.inj h
    exact ⟨rfl, rfl, rfl⟩
  | reset =>
    obtain rfl := Host.Outcome.next.inj h
    exact ⟨rfl, rfl, rfl⟩
  | step =>
    obtain ⟨-, rfl⟩ | ⟨i, -, rfl⟩ := eq_skip_or_effect_of_step h
    · exact ⟨rfl, rfl, rfl⟩
    · simp

end Sys2Proof.Machine
end

section
/-! The invariant of the machine, part by part: legal P, legal IR, SP and HALT clear, memory canonical (10_state sections 2,
4, 6, 7 and 8). -/
namespace Sys2Proof.Machine

variable {s t : State}

/-- `SetNZ` makes a legal P from a legal one: N and Z are clear before they are written, and never both set (10_state R19,
40_step R97). -/
theorem State.LegalStatus.setNZ (h : s.LegalStatus) (v : Byte) : (s.setNZ v).LegalStatus := by
  have hother : s.p &&& 0x7D = 0 := by
    obtain h | h | h := h <;> rw [h] <;> rfl
  rw [State.LegalStatus, State.setNZ_p, Sys2Proof.Machine.setNZ_eq, hother, and_mask_n]
  by_cases hv : v = 0
  · subst hv
    exact .inr (.inl rfl)
  · rw [if_neg hv]
    cases v.msb with
    | false => exact .inl rfl
    | true => exact .inr (.inr rfl)

/-- Every effect keeps P legal: it leaves P alone or writes it by `SetNZ`. -/
theorem State.LegalStatus.effect (h : s.LegalStatus) (i : Instr) : (effect i s).LegalStatus := by
  cases i with
  | sty a | sta a | stx a | nop => exact h
  | ldy imm | ldx imm | lda imm => exact State.LegalStatus.setNZ h imm
  | dec a | inc a => exact State.LegalStatus.setNZ h _

/-- The fetch of an instruction keeps the invariant: IR is a row's copy behind it (40_step R93). -/
theorem State.Inv.fetched (h : s.Inv) (m : Mnemonic) : (s.fetched m).Inv :=
  ⟨h.status, .inr ⟨m, rfl⟩, h.inert, h.memory⟩

/-- The skip of an unrecognised opcode keeps the invariant: IR is none behind it (40_step R92). -/
theorem State.Inv.skipUnrecognised (h : s.Inv) : s.skipUnrecognised.Inv :=
  ⟨h.status, .inl rfl, h.inert, h.memory⟩

/-- Every effect keeps the invariant. -/
theorem State.Inv.effect (h : s.Inv) (i : Instr) : (effect i s).Inv where
  status := h.status.effect i
  ir := by
    rw [State.LegalIr, effect_ir]
    exact h.ir
  inert := by
    rw [State.InertClear, effect_sp, effect_halt]
    exact h.inert
  memory := effect_mem_wf i h.memory

/-- Settles O50: the step is the skip or an effect behind the fetch, and each keeps every part of the invariant. -/
theorem stepKeepsInvariant : Obligations.StepKeepsInvariant := by
  intro s t hs h
  obtain ⟨-, rfl⟩ | ⟨i, -, rfl⟩ := eq_skip_or_effect_of_step h
  · exact hs.skipUnrecognised
  · exact (hs.fetched i.mnemonic).effect i

/-- The constructed machine meets the invariant in either STORE_MODE (70_reset R170). -/
theorem State.construct_inv (mode : StoreMode) : State.Inv { State.construct with storeMode := mode } :=
  ⟨.inl rfl, .inl rfl, ⟨rfl, rfl⟩, Memory.wf_reset⟩

/-- Every host command keeps the invariant. -/
theorem State.Inv.hostDo {c : HostCommand} (hs : s.Inv) (h : hostDo c s = .next t) : t.Inv := by
  cases c with
  | poke a v =>
    obtain rfl := Host.Outcome.next.inj h
    exact ⟨hs.status, hs.ir, hs.inert, Memory.wf_write hs.memory a v⟩
  | reset =>
    obtain rfl := Host.Outcome.next.inj h
    exact ⟨.inl rfl, hs.ir, hs.inert, hs.memory⟩
  | step => exact stepKeepsInvariant s t hs h

/-- Settles O53: the constructed machine is blank, and each command keeps every part of the invariant. -/
theorem everyCommandKeepsInvariant : Obligations.EveryCommandKeepsInvariant :=
  ⟨State.construct_inv, fun _ _ _ hs h => hs.hostDo h⟩

/-- Settles O52, by induction on the commands since construction. -/
theorem reachableStatesMeetInvariant : Obligations.ReachableStatesMeetInvariant := by
  intro s h
  induction h with
  | construct mode => exact State.construct_inv mode
  | command c _ done ih => exact ih.hostDo done

/-- `reset()` on the constructed machine reads the vector in zero-filled memory (70_reset R170, R171). -/
theorem State.cpuReset_construct : State.construct.cpuReset = State.reset := rfl

/-- Settles O51: State.reset is the constructed machine after the command reset(). -/
theorem resetMeetsInvariant : Obligations.ResetMeetsInvariant :=
  (State.construct_inv .assign).hostDo (c := .reset) (congrArg Host.Outcome.next State.cpuReset_construct)

end Sys2Proof.Machine
end

section
/-! The stores (43_store_absolute): one byte of memory, in the way of the machine's STORE_MODE, and nothing else but the
fetch. -/
namespace Sys2Proof.Machine

/-- An instruction that stores has an absolute address (30_encoding R73, R78). -/
theorem format_of_storesTo {i : Instr} {a : Addr} (h : i.storesTo = some a) : i.mnemonic.format = .abs := by
  cases i with
  | sty b | sta b | stx b | dec b | inc b => rfl
  | ldy imm | ldx imm | lda imm | nop => cases h

/-- The accesses of a store behind its address: ASSIGN writes without reading, SUBTRACT reads and writes (20_memory R51,
43_store_absolute R133). -/
def storeAccesses (mode : StoreMode) (a : Addr) (v : Byte) : List Access :=
  match mode with
  | .assign => [.write a v]
  | .subtract => [.read a, .write a v]

/-- The accesses of a store: the address fetch, then those of its mode. -/
theorem busStore_log (register : State → Byte) (b : Bus) :
    let a : Addr := b.state.readWord b.state.pc
    (busStore register b).log =
      b.log ++ [.read b.state.pc] ++ [.read (b.state.pc + 1)] ++
        storeAccesses b.state.storeMode a
          (storeValue b.state.storeMode (b.state.readByte a) (register (b.state.advance 2))) := by
  simp only [busStore, fetchWord_eq, State.advance_storeMode]
  cases b.state.storeMode with
  | assign => rfl
  | subtract => exact List.append_assoc _ _ _

variable {s : State} {m : Mnemonic} {a : Addr}

/-- The accesses of a store behind the opcode fetch. -/
theorem busStore_beginInstr_log (h : s.readByte (s.pc + 2) ++ s.readByte (s.pc + 1) = a) (register : State → Byte) :
    (busStore register ⟨s.beginInstr m, [.read s.pc]⟩).log =
      [.read s.pc, .read (s.pc + 1), .read (s.pc + 2)] ++
        storeAccesses s.storeMode a
          (storeValue s.storeMode (s.readByte a) (register ((s.beginInstr m).advance 2))) := by
  have haddr : (s.beginInstr m).readWord (s.beginInstr m).pc = a := (s.readWord_beginInstr_pc m).trans h
  have hpc : s.pc + 2 = (s.beginInstr m).pc + 1 := (BitVec.add_assoc s.pc 1 1).symm
  rw [busStore_log, haddr, hpc]
  rfl

/-- A register store behind the fetch of an absolute instruction (43_store_absolute R133). -/
theorem State.storeRegister_fetched (s : State) (h : m.format = .abs) (a : Addr) (r : Byte) :
    (s.fetched m).storeRegister a r =
      { s with mem := s.mem.write a (storeValue s.storeMode (s.readByte a) r), pc := s.pc + 3, cyc := s.cyc + 3,
               ir := some (decodedOf m) } := by
  rw [← s.consumeAbsolute_eq_fetched h, s.consumeAbsolute_beginInstr, State.storeRegister_eq]
  rfl

/-- A store of a register answers one byte written in the way of its mode behind the fetch, and the step does the same, with
the accesses of the mode, wherever its encoding stands at PC (43_store_absolute sections 1 and 2). -/
theorem exec_encode_step_of_store {i : Instr} (register : State → Byte) (hstores : i.storesTo = some a)
    (heffect : effect i (s.fetched i.mnemonic) = (s.fetched i.mnemonic).storeRegister a (register s))
    (hbehaviour : behaviour i.mnemonic = busStore register)
    (hregister : register ((s.beginInstr i.mnemonic).advance 2) = register s) :
    let v : Byte := storeValue s.storeMode (s.readByte a) (register s)
    let t : State := { s with mem := s.mem.write a v, pc := s.pc + 3, cyc := s.cyc + 3, ir := some (decodedOf i.mnemonic) }
    exec i s = .next t ∧ encode i = [i.mnemonic.opcode, a.extractLsb' 0 8, a.extractLsb' 8 8] ∧
      (s.readByte s.pc = i.mnemonic.opcode → s.readByte (s.pc + 2) ++ s.readByte (s.pc + 1) = a →
        step s = .next t ∧
        (busStep ⟨s, []⟩).2.log =
          [.read s.pc, .read (s.pc + 1), .read (s.pc + 2)] ++ storeAccesses s.storeMode a v) := by
  have hformat := format_of_storesTo hstores
  refine exec_encode_step_of_storesTo hstores ?_ fun h => ?_
  · rw [exec_eq_next_effect, heffect, s.storeRegister_fetched hformat]
  · rw [hbehaviour, busStore_beginInstr_log h, hregister]

/-- Settles O6: STA is the store of AC. -/
theorem staStoresByMode : Obligations.StaStoresByMode := fun a s =>
  ⟨s.mem.write a _, fun b => s.mem.read_write a b _, exec_encode_step_of_store State.ac rfl rfl rfl rfl⟩

/-- Settles O7: STX is the store of XR. -/
theorem stxStoresByMode : Obligations.StxStoresByMode := fun a s =>
  ⟨s.mem.write a _, fun b => s.mem.read_write a b _, exec_encode_step_of_store State.xr rfl rfl rfl rfl⟩

/-- Settles O8: STY is the store of YR. -/
theorem styStoresByMode : Obligations.StyStoresByMode := fun a s =>
  ⟨s.mem.write a _, fun b => s.mem.read_write a b _, exec_encode_step_of_store State.yr rfl rfl rfl rfl⟩

/-- Settles O39: SUB8 is subtraction modulo 256, and r = m - r exactly when m is twice r. -/
theorem storeValueOfEachMode : Obligations.StoreValueOfEachMode := by
  intro m r
  have hsub : (storeValue .subtract m r).toNat = (m.toNat + 256 - r.toNat) % 256 := by
    rw [storeValue, sub8, BitVec.toNat_sub]
    omega
  refine ⟨rfl, hsub, ?_⟩
  rw [BitVec.toNat_eq, hsub, storeValue]
  omega

variable (s)

/-- What the byte at a store's own address reads afterwards, and every other byte. -/
theorem State.readByte_storeRegister (a b : Addr) (r : Byte) :
    (s.storeRegister a r).readByte b = if b = a then storeValue s.storeMode (s.readByte a) r else s.readByte b :=
  s.readByte_writeByte a b _

/-- The byte that STA to PC + 3 writes is the next opcode byte (20_memory section 10). -/
theorem readByte_pc_effect_sta_next :
    (effect (.sta (s.pc + 3)) (s.fetched .sta)).readByte (effect (.sta (s.pc + 3)) (s.fetched .sta)).pc =
      storeValue s.storeMode (s.readByte (s.pc + 3)) s.ac := by
  have hpc : (effect (.sta (s.pc + 3)) (s.fetched .sta)).pc = s.pc + 3 := effect_pc _ _
  rw [hpc]
  exact ((s.fetched .sta).readByte_storeRegister _ _ _).trans (if_pos rfl)

/-- Settles O34: the next opcode byte is the byte written, which in ASSIGN mode is AC. -/
theorem storeSeenByNextFetch : Obligations.StoreSeenByNextFetch := by
  intro s
  have hnext := readByte_pc_effect_sta_next s
  refine ⟨_, exec_eq_next_effect s (.sta (s.pc + 3)), ?_, fun hmode hac => ?_, fun hmode hac => ?_⟩
  · rw [State.head?_fetchWindow]
    exact congrArg some hnext
  · have hlookup := congrArg lookup hnext
    rw [hmode, storeValue, hac] at hlookup
    exact ⟨State.report_of_lookup_some hlookup, step_of_lookup_some hlookup⟩
  · rw [hmode, storeValue] at hnext
    exact step_of_lookup_none ((congrArg lookup hnext).trans hac)

end Sys2Proof.Machine
end

section
/-! The accesses of a step (20_memory section 5). -/
namespace Sys2Proof

/-- The rows of the access table cover the nine operations. -/
theorem Mnemonic.access_rows (m : Mnemonic) :
    m.format = .imp ∨ m.format = .imm ∨ (m = .inc ∨ m = .dec) ∨ (m = .sta ∨ m = .stx ∨ m = .sty) := by
  cases m <;> decide

namespace Machine

variable {s : State} {m : Mnemonic}

/-- A step at an implied instruction makes the opcode fetch alone. -/
theorem busStep_log_of_implied (h : lookup (s.readByte s.pc) = some m) (hm : m.format = .imp) :
    (busStep ⟨s, []⟩).2.log = [.read s.pc] := by
  rw [busStep_of_lookup_some h]
  cases m with
  | nop => rfl
  | sty | sta | stx | ldy | ldx | lda | dec | inc => cases hm

/-- A step at a load reads the opcode and the operand. -/
theorem busStep_log_of_immediate (h : lookup (s.readByte s.pc) = some m) (hm : m.format = .imm) :
    (busStep ⟨s, []⟩).2.log = [.read s.pc, .read (s.pc + 1)] := by
  rw [busStep_of_lookup_some h, behaviour_log_of_immediate hm]
  rfl

/-- A step at INC or DEC reads its three bytes, then reads and writes the byte at its address. -/
theorem busStep_log_of_modify (h : lookup (s.readByte s.pc) = some m) (hm : m = .inc ∨ m = .dec) :
    ∃ v : Byte, (busStep ⟨s, []⟩).2.log =
      [.read s.pc, .read (s.pc + 1), .read (s.pc + 2)] ++
        [.read (s.readByte (s.pc + 2) ++ s.readByte (s.pc + 1)),
          .write (s.readByte (s.pc + 2) ++ s.readByte (s.pc + 1)) v] := by
  rw [busStep_of_lookup_some h]
  obtain rfl | rfl := hm
  · exact ⟨_, busModify_beginInstr_log rfl inc8⟩
  · exact ⟨_, busModify_beginInstr_log rfl dec8⟩

/-- A step at a store reads its three bytes, then makes the accesses of its mode. -/
theorem busStep_log_of_store (h : lookup (s.readByte s.pc) = some m) (hm : m = .sta ∨ m = .stx ∨ m = .sty) :
    ∃ v : Byte, (busStep ⟨s, []⟩).2.log =
      [.read s.pc, .read (s.pc + 1), .read (s.pc + 2)] ++
        storeAccesses s.storeMode (s.readByte (s.pc + 2) ++ s.readByte (s.pc + 1)) v := by
  rw [busStep_of_lookup_some h]
  obtain rfl | rfl | rfl := hm
  · exact ⟨_, busStore_beginInstr_log rfl State.ac⟩
  · exact ⟨_, busStore_beginInstr_log rfl State.xr⟩
  · exact ⟨_, busStore_beginInstr_log rfl State.yr⟩

theorem length_storeAccesses_le (mode : StoreMode) (a : Addr) (v : Byte) :
    (storeAccesses mode a v).length ≤ 2 := by
  cases mode with
  | assign => exact Nat.le_succ 1
  | subtract => exact Nat.le_refl 2

/-- A step makes one to five accesses. -/
theorem length_busStep_log (s : State) :
    1 ≤ (busStep ⟨s, []⟩).2.log.length ∧ (busStep ⟨s, []⟩).2.log.length ≤ 5 := by
  cases h : lookup (s.readByte s.pc) with
  | none => simp [busStep_of_lookup_none h]
  | some m =>
    obtain hm | hm | hm | hm := m.access_rows
    · simp [busStep_log_of_implied h hm]
    · simp [busStep_log_of_immediate h hm]
    · obtain ⟨v, hlog⟩ := busStep_log_of_modify h hm
      simp [hlog]
    · obtain ⟨v, hlog⟩ := busStep_log_of_store h hm
      rw [hlog, List.length_append]
      exact ⟨Nat.le_add_right_of_le (Nat.le_add_left 1 2), Nat.add_le_add_left (length_storeAccesses_le _ _ _) 3⟩

/-- Settles O23: one row of the access table for each format and, with an absolute address, each kind of behaviour. -/
theorem accessesOfEachOperation : Obligations.AccessesOfEachOperation := by
  intro s
  refine ⟨length_busStep_log s, fun hnone => ?_, fun m h => ⟨busStep_log_of_implied h, busStep_log_of_immediate h,
    busStep_log_of_modify h, fun hm hmode => ?_, fun hm hmode => ?_⟩⟩
  · rw [busStep_of_lookup_none hnone]
    rfl
  · have hlog := busStep_log_of_store h hm
    rwa [hmode] at hlog
  · have hlog := busStep_log_of_store h hm
    rwa [hmode] at hlog

end Machine
end Sys2Proof
end

section
/-! Memory as data: the canonical form is determined by the bytes (10_state section 8). -/
namespace Sys2Proof.Machine

/-- A listed cell is read at its address: the addresses rise, so no cell before it has the same one. -/
theorem readCells_of_mem {l : List Host.Cell} {c : Host.Cell} (hl : l.Pairwise (fun x y => x.1 < y.1)) (hc : c ∈ l) :
    readCells c.1 l = c.2 := by
  induction l with
  | nil => cases hc
  | cons d rest ih =>
    obtain ⟨hd, hrest⟩ := List.pairwise_cons.mp hl
    obtain rfl | hc := List.mem_cons.mp hc
    · exact if_pos rfl
    · exact (if_neg (hd c hc).ne).trans (ih hrest hc)

/-- A byte that differs from what an unlisted address holds is listed. -/
theorem mem_of_readCells_ne {l : List Host.Cell} {k : Nat} (h : readCells k l ≠ Memory.unlisted) :
    (k, readCells k l) ∈ l := by
  induction l with
  | nil => exact absurd rfl h
  | cons d rest ih =>
    by_cases hd : d.1 = k
    · have hread : readCells k (d :: rest) = d.2 := if_pos hd
      rw [hread, ← hd]
      exact List.mem_cons_self
    · have hread : readCells k (d :: rest) = readCells k rest := if_neg hd
      rw [hread] at h ⊢
      exact List.mem_cons_of_mem d (ih h)

variable {m n : Memory}

/-- Where a canonical memory lists a cell, a memory that reads alike lists it too. -/
theorem Memory.mem_cells_of_read_eq (hm : m.wf) (h : ∀ a : Addr, m.read a = n.read a) {c : Host.Cell}
    (hc : c ∈ m.cells) : c ∈ n.cells := by
  obtain ⟨hsorted, hcells⟩ := hm
  obtain ⟨hlt, hne⟩ := hcells c hc
  have haddr : (BitVec.ofNat 16 c.1).toNat = c.1 := Nat.mod_eq_of_lt hlt
  have hread : readCells c.1 n.cells = c.2 := by
    have := h (BitVec.ofNat 16 c.1)
    rw [Memory.read, Memory.read, haddr, readCells_of_mem hsorted hc] at this
    exact this.symm
  have hlisted := mem_of_readCells_ne (hread.trans_ne hne)
  rwa [hread] at hlisted

/-- Canonical memories that read alike are equal. -/
theorem Memory.ext_read (hm : m.wf) (hn : n.wf) (h : ∀ a : Addr, m.read a = n.read a) : m = n := by
  have hmem : ∀ c : Host.Cell, c ∈ m.cells ↔ c ∈ n.cells := fun c =>
    ⟨Memory.mem_cells_of_read_eq hm h, Memory.mem_cells_of_read_eq hn fun a => (h a).symm⟩
  have : Std.Irrefl (fun x y : Host.Cell => x.1 < y.1) := ⟨fun c => Nat.lt_irrefl c.1⟩
  have : Std.Antisymm (fun x y : Host.Cell => x.1 < y.1) := ⟨fun c d hcd hdc => absurd hdc hcd.asymm⟩
  have hcells : m.cells = n.cells := hm.1.eq_of_mem_iff hn.1 hmem
  exact congrArg Memory.mk hcells

/-- Settles O31: both memories list the same cells, each in rising order. -/
theorem memoryIsItsBytes : Obligations.MemoryIsItsBytes := fun _ _ => Memory.ext_read

/-- Writing the byte already there changes nothing. -/
theorem Memory.write_read_same (hm : m.wf) (a : Addr) : m.write a (m.read a) = m := by
  refine Memory.ext_read (Memory.wf_write hm a _) hm fun b => ?_
  rw [Memory.read_write]
  split
  · next hb => rw [hb]
  · rfl

/-- The last of two writes at an address counts. -/
theorem Memory.write_write_same (hm : m.wf) (a : Addr) (v w : Byte) : (m.write a v).write a w = m.write a w := by
  refine Memory.ext_read (Memory.wf_write (Memory.wf_write hm a v) a w) (Memory.wf_write hm a w) fun b => ?_
  simp only [Memory.read_write]
  split <;> rfl

/-- Settles O32: the two laws of memory, in the state. -/
theorem writesIdempotent : Obligations.WritesIdempotent := by
  intro s a v w h
  exact ⟨congrArg (fun m => { s with mem := m }) (Memory.write_read_same h a),
    congrArg (fun m => { s with mem := m }) (Memory.write_write_same h a v w)⟩

end Sys2Proof.Machine
end

section
/-! Fetches and word reads (20_memory sections 1 to 3). -/
namespace Sys2Proof.Machine

/-- Settles O28: the two primitives advance PC and CYC behind their reads. -/
theorem fetchPrimitives : Obligations.FetchPrimitives := by
  intro addr b
  refine ⟨fetchByte_eq addr b, ?_⟩
  rw [fetchWord_eq, List.append_assoc]
  rfl

/-- Settles O30: a word read is `word` of the two bytes, the high one at the next address modulo 65,536. -/
theorem readWordLittleEndian : Obligations.ReadWordLittleEndian := by
  intro s a
  refine ⟨fun h hh => ?_, word_toNat _ _⟩
  obtain rfl : h = a + 1 := BitVec.eq_of_toNat_eq (hh.trans (BitVec.toNat_add a 1).symm)
  exact word_toNat _ _

end Sys2Proof.Machine
end

section
/-! INC and DEC undo each other (42_inc_dec_absolute, notes on the family). -/
namespace Sys2Proof.Machine

/-- What INC, DEC or any other change of a byte leaves at each address. -/
theorem State.readByte_modifyByte (s : State) (a b : Addr) (f : Byte → Byte) :
    (s.modifyByte a f).readByte b = if b = a then f (s.readByte a) else s.readByte b :=
  s.readByte_writeByte a b _

/-- A change of a byte and then its inverse restore every byte of memory. -/
theorem State.readByte_modifyByte_inverse {f g : Byte → Byte} (hgf : Function.LeftInverse g f) (s : State)
    (a b : Addr) (m k : Mnemonic) :
    ((((s.fetched m).modifyByte a f).fetched k).modifyByte a g).readByte b = s.readByte b := by
  by_cases hb : b = a
  · simp [State.readByte_modifyByte, hb, hgf (s.readByte a)]
  · simp [State.readByte_modifyByte, hb]

theorem dec8_inc8 : Function.LeftInverse dec8 inc8 := fun v => BitVec.add_sub_cancel v 1

theorem inc8_dec8 : Function.LeftInverse inc8 dec8 := fun v => BitVec.sub_add_cancel v 1

/-- Settles O35: INC8 and DEC8 are inverse to each other, and no fetch touches memory. -/
theorem incDecRestoreMemory : Obligations.IncDecRestoreMemory := fun a s =>
  ⟨⟨_, _, exec_eq_next_effect s (.inc a), exec_eq_next_effect _ (.dec a),
      fun b => s.readByte_modifyByte_inverse dec8_inc8 a b .inc .dec⟩,
    ⟨_, _, exec_eq_next_effect s (.dec a), exec_eq_next_effect _ (.inc a),
      fun b => s.readByte_modifyByte_inverse inc8_dec8 a b .dec .inc⟩⟩

end Sys2Proof.Machine
end

section
/-! Runs: CYC counts the bytes fetched, and IR is decoded behind a recognised opcode (10_state section 5, 60_exceptions
section 1). -/
namespace Sys2Proof

theorem Mnemonic.length_bounds (m : Mnemonic) : 1 ≤ m.length ∧ m.length ≤ 3 := by cases m <;> decide

namespace Machine

variable {s : State}

theorem State.nextLength_of_lookup_none (h : lookup (s.readByte s.pc) = none) : s.nextLength = 1 := by
  rw [State.nextLength, h]

theorem State.nextLength_of_lookup_some {m : Mnemonic} (h : lookup (s.readByte s.pc) = some m) :
    s.nextLength = m.length := by
  rw [State.nextLength, h]

/-- Every step answers a state whose CYC has grown by the length of what it executed. -/
theorem step_cyc (s : State) : ∃ t : State, step s = .next t ∧ t.cyc = s.cyc + s.nextLength := by
  cases h : lookup (s.readByte s.pc) with
  | none =>
    refine ⟨_, step_of_lookup_none h, ?_⟩
    rw [State.nextLength_of_lookup_none h]
    rfl
  | some m =>
    refine ⟨_, step_eq_next_effect h, ?_⟩
    rw [State.nextLength_of_lookup_some h, effect_cyc, State.fetched_cyc]

/-- A step fetches one to three bytes (30_encoding R74). -/
theorem State.nextLength_bounds (s : State) : 1 ≤ s.nextLength ∧ s.nextLength ≤ 3 := by
  cases h : lookup (s.readByte s.pc) with
  | none => simp [State.nextLength_of_lookup_none h]
  | some m =>
    rw [State.nextLength_of_lookup_some h]
    exact m.length_bounds

/-- A run of any length completes, with CYC grown by the sum of the lengths, one to three for each step. -/
theorem run_cyc (n : Nat) (s : State) :
    ∃ t : State, Host.Core.run Sys2Proof.core n s = .next t ∧
      t.cyc = s.cyc + s.runLength n ∧ n ≤ s.runLength n ∧ s.runLength n ≤ 3 * n := by
  induction n generalizing s with
  | zero => exact ⟨s, run_zero s, rfl, Nat.le_refl 0, Nat.le_refl 0⟩
  | succ n ih =>
    obtain ⟨u, hstep, hu⟩ := step_cyc s
    obtain ⟨t, hrun, ht, hmin, hmax⟩ := ih u
    have hnext := s.nextLength_bounds
    refine ⟨t, (run_succ_of_next n hstep).trans hrun, ?_⟩
    rw [State.runLength_succ_of_next n hstep]
    omega

/-- Settles O27: a run counts the bytes of its steps, and neither poke nor reset() counts any. -/
theorem cycCountsBytesFetched : Obligations.CycCountsBytesFetched :=
  ⟨run_cyc, fun s a v => s.writeByte_cyc a v, fun s => s.cpuReset_cyc⟩

/-- A step that reports OK found its opcode in the table (40_step R96). -/
theorem State.lookup_of_report_ok (h : s.report = .ok) : ∃ m : Mnemonic, lookup (s.readByte s.pc) = some m := by
  cases hop : lookup (s.readByte s.pc) with
  | none =>
    rw [s.report_of_lookup_none hop] at h
    cases h
  | some m => exact ⟨m, rfl⟩

/-- A step that reports OK leaves a row's copy in IR (40_step R93). -/
theorem step_ir_of_report_ok (h : s.report = .ok) :
    ∃ (t : State) (m : Mnemonic), step s = .next t ∧ t.ir = some (decodedOf m) := by
  obtain ⟨m, hm⟩ := State.lookup_of_report_ok h
  refine ⟨_, m, step_eq_next_effect hm, ?_⟩
  rw [effect_ir, State.fetched_ir]

/-- A run of at least one step that reports OK throughout ends with a row's copy in IR. -/
theorem run_ir_of_recognised (n : Nat) (s : State) (h : State.RunsRecognised (n + 1) s) :
    ∃ (t : State) (m : Mnemonic), Host.Core.run Sys2Proof.core (n + 1) s = .next t ∧ t.ir = some (decodedOf m) := by
  induction n generalizing s with
  | zero =>
    obtain ⟨t, m, hstep, ht⟩ := step_ir_of_report_ok h.1
    exact ⟨t, m, (run_succ_of_next 0 hstep).trans (run_zero t), ht⟩
  | succ n ih =>
    obtain ⟨hreport, hrest⟩ := h
    obtain ⟨u, -, hstep, -⟩ := step_ir_of_report_ok hreport
    obtain ⟨t, m, hrun, ht⟩ := ih u (hrest u hstep)
    exact ⟨t, m, (run_succ_of_next (n + 1) hstep).trans hrun, ht⟩

/-- Settles O26: the copy of a row is legal and is not none. -/
theorem recognisedRunEndsDecoded : Obligations.RecognisedRunEndsDecoded := by
  intro n s h
  obtain ⟨t, m, hrun, ht⟩ := run_ir_of_recognised n s h
  exact ⟨t, hrun, .inr ⟨m, ht⟩, ht.trans_ne (Option.some_ne_none _)⟩

end Machine
end Sys2Proof
end

section
/-! Which bits of P an instruction writes (10_state section 4). -/
namespace Sys2Proof.Machine

/-- Some bits of a status byte that `SetNZ` wrote: those of the old byte, of Z and of N (40_step R97). -/
theorem setNZ_and (v p bits : Byte) :
    setNZ v p &&& bits =
      (p &&& (0x7D &&& bits)) ||| (if v = 0 then 0x02 &&& bits else 0) ||| (v &&& (0x80 &&& bits)) := by
  have hz : (if v = 0 then (0x02 : Byte) else 0x00) &&& bits = if v = 0 then 0x02 &&& bits else 0 := by
    split
    · rfl
    · exact BitVec.zero_and
  rw [setNZ_eq, BitVec.and_or_distrib_right, BitVec.and_or_distrib_right, BitVec.and_assoc, BitVec.and_assoc, hz]

/-- `SetNZ` keeps the bits other than N and Z (40_step R97). -/
theorem setNZ_and_other (v p : Byte) : setNZ v p &&& 0x7D = p &&& 0x7D := by
  simp [setNZ_and]

/-- `SetNZ` writes N and Z from the value (40_step R97). -/
theorem setNZ_and_nz (v p : Byte) : setNZ v p &&& 0x82 = if v = 0 then 0x02 else v &&& 0x80 := by
  by_cases hv : v = 0
  · simp [setNZ_and, hv]
  · rw [setNZ_and, if_neg hv, if_neg hv]
    simp

/-- No effect changes a bit of P other than N and Z. -/
theorem effect_p_other (i : Instr) (s : State) : (effect i s).p &&& 0x7D = s.p &&& 0x7D := by
  cases i with
  | sty a | sta a | stx a | nop => rfl
  | ldy imm | ldx imm | lda imm | dec a | inc a => exact setNZ_and_other _ _

/-- INC and DEC set N and Z from the byte at the address afterwards (42_inc_dec R120, R121). -/
theorem State.modifyByte_p_nz (s : State) (a : Addr) (f : Byte → Byte) :
    (s.modifyByte a f).p &&& 0x82 =
      if (s.modifyByte a f).readByte a = 0 then 0x02 else (s.modifyByte a f).readByte a &&& 0x80 := by
  rw [State.readByte_modifyByte, if_pos rfl]
  exact setNZ_and_nz _ _

/-- Settles O40: only `SetNZ` writes P, and the skip keeps it. -/
theorem onlyNAndZAreWritten : Obligations.OnlyNAndZAreWritten := by
  refine ⟨fun i s t h => ?_, fun s h => ⟨_, step_of_lookup_none h, rfl⟩⟩
  obtain rfl := eq_effect_of_exec h
  refine ⟨effect_p_other i _, ?_⟩
  cases i with
  | sty a | sta a | stx a | nop => rfl
  | ldy imm | ldx imm | lda imm => exact setNZ_and_nz imm s.p
  | dec a | inc a => exact State.modifyByte_p_nz _ a _

end Sys2Proof.Machine
end

section
/-! P, CYC, IR, SP and HALT influence no step (10_state sections 4 to 7 and 11). -/
namespace Sys2Proof.Machine

/-- A state with other values of the elements that influence no step. -/
def State.withHidden (s : State) (q : Byte) (n : Nat) (slot : Option DecodedInstr) (x : Addr) (h : Bool) : State :=
  { s with p := q, cyc := n, ir := slot, sp := x, halt := h }

variable (s : State) (q : Byte) (n : Nat) (slot : Option DecodedInstr) (x : Addr) (h : Bool)

/-- The fetch counts on and latches IR whatever stood there before. -/
theorem State.fetched_withHidden (m : Mnemonic) :
    (s.withHidden q n slot x h).fetched m =
      (s.fetched m).withHidden q (n + m.length) (some (decodedOf m)) x h := rfl

/-- No effect reads a hidden element but P, and P for the next P only. -/
theorem effect_withHidden (i : Instr) :
    ∃ q' : Byte, effect i (s.withHidden q n slot x h) = (effect i s).withHidden q' n slot x h := by
  cases i <;> exact ⟨_, rfl⟩

/-- The skip counts on and clears IR whatever stood there before. -/
theorem State.skipUnrecognised_withHidden :
    (s.withHidden q n slot x h).skipUnrecognised = s.skipUnrecognised.withHidden q (n + 1) none x h := rfl

variable {s} {t : State}

/-- The step with other hidden elements answers the same state but for P, the count of bytes, SP and HALT. -/
theorem step_withHidden (hstep : step s = .next t) :
    ∃ q' : Byte, step (s.withHidden q n slot x h) = .next (t.withHidden q' (n + s.nextLength) t.ir x h) := by
  cases hop : lookup (s.readByte s.pc) with
  | none =>
    obtain rfl := Host.Outcome.next.inj ((step_of_lookup_none hop).symm.trans hstep)
    refine ⟨q, ?_⟩
    rw [step_of_lookup_none (s := s.withHidden q n slot x h) hop, State.skipUnrecognised_withHidden,
      State.nextLength_of_lookup_none hop]
    rfl
  | some m =>
    obtain rfl := Host.Outcome.next.inj ((step_eq_next_effect hop).symm.trans hstep)
    obtain ⟨q', heffect⟩ := effect_withHidden (s.fetched m) q (n + m.length) (some (decodedOf m)) x h
      (operandInstr m (s.readByte (s.pc + 1)) (s.readByte (s.pc + 2)))
    refine ⟨q', ?_⟩
    rw [step_eq_next_effect (s := s.withHidden q n slot x h) hop, State.fetched_withHidden,
      State.nextLength_of_lookup_some hop, effect_ir, State.fetched_ir, ← heffect]
    rfl

/-- Settles O42: a step passes the hidden elements through, and counts the same bytes on any CYC. -/
theorem hiddenStateInfluencesNothing : Obligations.HiddenStateInfluencesNothing := by
  intro s t q n slot x h hstep
  obtain ⟨q', hhidden⟩ := step_withHidden q n slot x h hstep
  obtain ⟨u, hu, hcyc⟩ := step_cyc s
  obtain rfl := Host.Outcome.next.inj (hu.symm.trans hstep)
  have hcount : n + s.nextLength + s.cyc = u.cyc + n := by omega
  exact ⟨rfl, _, hhidden, rfl, rfl, rfl, rfl, rfl, rfl, hcount, rfl, rfl⟩

end Sys2Proof.Machine
end

section
/-! Construction, reset() and poke (70_reset sections 1 and 2, 20_memory section 8). -/
namespace Sys2Proof.Machine

/-- Settles O44: construction zero-fills, so reset() finds the vector 0x0000 and changes nothing. -/
theorem resetLeavesBlankMachine : Obligations.ResetLeavesBlankMachine :=
  ⟨State.cpuReset_construct, ⟨rfl, rfl, rfl, rfl, rfl, rfl, rfl, rfl, rfl⟩, fun _ => rfl⟩

/-- Settles O45: reset() writes P and PC, and its bus form reads the two bytes of the vector. -/
theorem resetCommandEffect : Obligations.ResetCommandEffect := fun _ => ⟨rfl, rfl⟩

/-- Settles O47: a poke is one write of memory. -/
theorem pokeEffect : Obligations.PokeEffect := fun s a v => ⟨s.mem.write a v, rfl, fun b => s.mem.read_write a b v⟩

end Sys2Proof.Machine
end
